-- ==== Sys2Proof/Word.lean ====
section
/-! DEFINITION. The two widths of the core (00_scope.md R9): bytes of 8 bits and 16-bit words, which are also its addresses. Arithmetic on them wraps (R11). -/

namespace Sys2Proof

/-- An 8-bit value: A, X, Y, SP, P, a memory cell, an opcode or operand byte (00_scope.md R9, R10). -/
abbrev Byte := BitVec 8

/-- A 16-bit value: PC, an operand word, an effective address (00_scope.md R9, R10). -/
abbrev Addr := BitVec 16

end Sys2Proof
end

