-- ==== Sys2Proof/Config.lean ====
section
/-! DEFINITION. What is fixed for a machine, or is an argument of it (00_scope.md R9). The dispatch table, which is configuration too (10_state.md R20), stands in Decode.lean. -/

namespace Sys2Proof

/-- The memory size in bytes; addresses 0 to 65535 are all valid (00_scope.md R9, 20_memory.md R40). -/
def Config.memorySize : Nat := 65536

/-- The longest instruction in bytes (00_scope.md R9, 30_encoding.md R60). -/
def Config.maxInstrLength : Nat := 3

/-- `MEM0`, the launch memory image: the one parameter the spec leaves OPEN (00_scope.md R9, decision D9). It is an argument of `State.powerUp`, never a field of State. -/
abbrev Config.LaunchImage := Addr → Byte

end Sys2Proof
end

