-- ==== Sys2Proof/Machine/Memory.lean ====
section
/-! DEFINITION. The 65536 bytes of memory (20_memory.md R40) as one canonical list of cells. -/

namespace Sys2Proof.Machine

/-- Memory: the cells that differ from `Memory.unlisted`, addresses strictly rising (20_memory.md R40). -/
abbrev Memory := List Host.Cell

/-- What an address that no cell lists reads as. DESIGN CHOICE (log 1): the spec leaves the launch image `MEM0` open (decision D9) and forbids a fault here (60_exceptions.md R200); any image is still representable, by `Memory.ofImage`. -/
def Memory.unlisted : Byte := 0x00

/-- The canonical form: addresses strictly rising, every address in the address space, no cell equal to what an unlisted address reads as. -/
def Memory.wf (m : Memory) : Bool :=
  decide (m.Pairwise (fun c d => c.1 < d.1) ∧ ∀ c ∈ m, c.1 < Config.memorySize ∧ c.2 ≠ Memory.unlisted)

/-- The byte at key `k`. -/
def Memory.lookup (k : Nat) : Memory → Byte
  | [] => Memory.unlisted
  | (k', v) :: rest => if k' = k then v else Memory.lookup k rest

/-- A cell in front of a list, unless it holds what an unlisted address reads as. -/
def Memory.consCell (k : Nat) (v : Byte) (m : Memory) : Memory :=
  if v = Memory.unlisted then m else (k, v) :: m

/-- Put byte `v` at key `k`, keeping the canonical form. -/
def Memory.insert (k : Nat) (v : Byte) : Memory → Memory
  | [] => Memory.consCell k v []
  | (k', v') :: rest =>
    if k < k' then Memory.consCell k v ((k', v') :: rest)
    else if k = k' then Memory.consCell k v rest
    else (k', v') :: Memory.insert k v rest

/-- `MEM[a]` (00_scope.md R13, 20_memory.md R40). -/
def Memory.read (m : Memory) (a : Addr) : Byte := Memory.lookup a.toNat m

/-- `MEM[a] <- v` (20_memory.md R42). -/
def Memory.write (m : Memory) (a : Addr) (v : Byte) : Memory := Memory.insert a.toNat v m

/-- Write a list of bytes at consecutive addresses, modulo 65536 (20_memory.md R45). -/
def Memory.writeBytes (m : Memory) (a : Addr) : List Byte → Memory
  | [] => m
  | b :: bs => Memory.writeBytes (Memory.write m a b) (a + 1) bs

/-- The memory that holds a launch image `MEM0` (10_state.md R39, decision D9). -/
def Memory.ofImage (mem0 : Config.LaunchImage) : Memory :=
  (List.range Config.memorySize).filterMap fun k =>
    let v := mem0 (BitVec.ofNat 16 k)
    if v = Memory.unlisted then none else some (k, v)

end Sys2Proof.Machine
end

