-- ==== Sys2Proof/Machine/State.lean ====
section
/-! DEFINITION. The state of one machine: exactly the table of 10_state.md R20. -/

namespace Sys2Proof.Machine

/-- The four 8-bit registers that instructions name as sources or destinations (10_state.md R22, R23, R24). -/
inductive Reg where
  | a | x | y | sp
deriving DecidableEq, Repr

/-- The state of one machine; "nothing else is state" (10_state.md R20). -/
structure State where
  /-- `PC`, the address of the next byte to fetch (R21). -/
  pc : Addr
  /-- `SP`, a raw 8-bit register; no address is formed from it (R22). -/
  sp : Byte
  /-- `A`, the accumulator (R23). -/
  a : Byte
  /-- `X` (R24). -/
  x : Byte
  /-- `Y` (R24). -/
  y : Byte
  /-- `P`, the status byte: C, Z, I, D, B, bit 5, V, N from bit 0 up (R26). -/
  p : Byte
  /-- `MEM` (20_memory.md R40). -/
  mem : Memory
  /-- `last_read`: the address of the most recent memory read, or none (20_memory.md R56). -/
  lastRead : Option Addr
  /-- `last_write`: the address of the most recent memory write, or none (20_memory.md R56). -/
  lastWrite : Option Addr
deriving DecidableEq, Repr

/-- The faults of the core: there are none. "A model has no fault outcome for any instruction of the core; a model that adds one departs from this spec" (60_exceptions.md R200). -/
inductive Fault where
deriving DecidableEq, Repr

/-- The refusals of the model. -/
inductive Refusal where
  /-- An instruction without a meaning, by its mnemonic. Only an arm of `exec` may raise it, and none does: every instruction has its meaning. Safe. -/
  | notModelled (mnemonic : String)
deriving DecidableEq, Repr

/-- What an instruction or a step answers. -/
abbrev Outcome := Host.Outcome State Fault Refusal

/-- The machine right after reset, as construction leaves it (10_state.md R39, 70_reset_and_hazards.md R223): registers and status 0, `last_read` and `last_write` none, and the launch image in which every byte is `Memory.unlisted` (log 1, log 10). -/
def State.reset : State where
  pc := 0x0000
  sp := 0x00
  a := 0x00
  x := 0x00
  y := 0x00
  p := 0x00
  mem := []
  lastRead := none
  lastWrite := none

end Sys2Proof.Machine
end

