-- ==== Sys2Proof/Machine/Flags.lean ====
section
/-! DEFINITION. The status byte P: its masks and the operations that write it (10_state.md R26, R35, R36). No flag is computed as a carry or an overflow anywhere (R27, R33). -/

namespace Sys2Proof.Machine

/-- Carry, bit 0 (10_state.md R27). -/
def maskC : Byte := 0x01
/-- Zero, bit 1 (10_state.md R28). -/
def maskZ : Byte := 0x02
/-- InterruptDisable, bit 2 (10_state.md R29). -/
def maskI : Byte := 0x04
/-- Decimal, bit 3 (10_state.md R30). -/
def maskD : Byte := 0x08
/-- Break, bit 4: stored, written by no instruction (10_state.md R31, log 6). -/
def maskB : Byte := 0x10
/-- Bit 5: stored, written by no instruction (10_state.md R32, log 6). -/
def maskBit5 : Byte := 0x20
/-- Overflow, bit 6 (10_state.md R33). -/
def maskV : Byte := 0x40
/-- Negative, bit 7 (10_state.md R34). -/
def maskN : Byte := 0x80

/-- `SetFlags(mask)`: `P <- P | mask` (10_state.md R35). -/
def State.setFlags (s : State) (mask : Byte) : State := { s with p := s.p ||| mask }

/-- `ClearFlags(mask)`: `P <- P & (~mask & 0xFF)` (10_state.md R35). -/
def State.clearFlags (s : State) (mask : Byte) : State := { s with p := s.p &&& ~~~mask }

/-- `HasFlag(mask)`: true iff any bit of the mask is set in P (10_state.md R35). -/
def State.hasFlag (s : State) (mask : Byte) : Bool := s.p &&& mask != 0

/-- Write a boolean into the flag of a mask (00_scope.md R12). -/
def State.putFlag (s : State) (mask : Byte) (b : Bool) : State :=
  if b then s.setFlags mask else s.clearFlags mask

/-- `SetZN(v)`: `P.Z <- (v == 0)` and `P.N <- v[7]`, other flags untouched (10_state.md R36). -/
def State.setZN (s : State) (v : Byte) : State :=
  (s.putFlag maskZ (v == 0)).putFlag maskN v.msb

end Sys2Proof.Machine
end

