-- ==== Sys2Proof/Syntax.lean ====
section
/-! DEFINITION. The instructions: one constructor per handler of the dispatch table (30_encoding.md R66, R67), named as the spec names the handler, with the operand bytes already assembled (R62, R63, R64). -/

namespace Sys2Proof

/-- The addressing modes (40_engine_addressing.md R86 to R94). -/
inductive AddrMode where
  | implied | immediate | zeroPage | zeroPageX | zeroPageY | absolute | absoluteX | absoluteY | indirect
deriving DecidableEq, Repr

/-- An instruction. `v` is an immediate byte, `nn` a zero-page base, `w` an operand word `hhll`. -/
inductive Instr where
  -- Load (41_load.md R100 to R115)
  | ldaImm (v : Byte)  -- LDA_IMM, R100
  | ldaZp (nn : Byte)  -- LDA_ZP, R101
  | ldaZpX (nn : Byte)  -- LDA_ZPX, R102
  | ldaAbs (w : Addr)  -- LDA_ABS, R103
  | ldaAbsX (w : Addr)  -- LDA_ABSX, R104
  | ldaAbsY (w : Addr)  -- LDA_ABSY, R105
  | ldxImm (v : Byte)  -- LDX_IMM, R106
  | ldxZp (nn : Byte)  -- LDX_ZP, R107
  | ldxZpY (nn : Byte)  -- LDX_ZPY, R108
  | ldxAbs (w : Addr)  -- LDX_ABS, R109
  | ldxAbsY (w : Addr)  -- LDX_ABSY, R110
  | ldyImm (v : Byte)  -- LDY_IMM, R111
  | ldyZp (nn : Byte)  -- LDY_ZP, R112
  | ldyZpX (nn : Byte)  -- LDY_ZPX, R113
  | ldyAbs (w : Addr)  -- LDY_ABS, R114
  | ldyAbsX (w : Addr)  -- LDY_ABSX, R115
  -- Store (42_store.md R120 to R130)
  | staZp (nn : Byte)  -- STA_ZP, R120
  | staZpX (nn : Byte)  -- STA_ZPX, R121
  | staAbs (w : Addr)  -- STA_ABS, R122
  | staAbsX (w : Addr)  -- STA_ABSX, R123
  | staAbsY (w : Addr)  -- STA_ABSY, R124
  | stxZp (nn : Byte)  -- STX_ZP, R125
  | stxZpY (nn : Byte)  -- STX_ZPY, R126
  | stxAbs (w : Addr)  -- STX_ABS, R127
  | styZp (nn : Byte)  -- STY_ZP, R128
  | styZpX (nn : Byte)  -- STY_ZPX, R129
  | styAbs (w : Addr)  -- STY_ABS, R130
  -- Transfer (43_transfer.md R140 to R145)
  | tax  -- TAX, R140
  | tay  -- TAY, R141
  | txa  -- TXA, R142
  | tya  -- TYA, R143
  | tsx  -- TSX, R144
  | txs  -- TXS, R145
  -- Increment and decrement (44_incdec.md R150 to R161)
  | incZp (nn : Byte)  -- INC_ZP, R150
  | incZpX (nn : Byte)  -- INC_ZPX, R151
  | incAbs (w : Addr)  -- INC_ABS, R152
  | incAbsX (w : Addr)  -- INC_ABSX, R153
  | decZp (nn : Byte)  -- DEC_ZP, R154
  | decZpX (nn : Byte)  -- DEC_ZPX, R155
  | decAbs (w : Addr)  -- DEC_ABS, R156
  | decAbsX (w : Addr)  -- DEC_ABSX, R157
  | inx  -- INX, R158
  | iny  -- INY, R159
  | dex  -- DEX, R160
  | dey  -- DEY, R161
  -- Logical (45_logical.md R170 to R175)
  | andImm (v : Byte)  -- AND_IMM, R170
  | andZp (nn : Byte)  -- AND_ZP, R171
  | andZpX (nn : Byte)  -- AND_ZPX, R172
  | andAbs (w : Addr)  -- AND_ABS, R173
  | andAbsX (w : Addr)  -- AND_ABSX, R174
  | andAbsY (w : Addr)  -- AND_ABSY, R175
  -- Flag set and clear (46_flag.md R180 to R186)
  | sec  -- SEC, R180
  | sed  -- SED, R181
  | sei  -- SEI, R182
  | clc  -- CLC, R183
  | cld  -- CLD, R184
  | cli  -- CLI, R185
  | clv  -- CLV, R186
  -- Jump (47_jump.md R190 to R191)
  | jmpAbs (w : Addr)  -- JMP_ABS, R190
  | jmpInd (w : Addr)  -- JMP_IND, R191
  -- No operation (48_nop_unsupported.md R195 to R195)
  | nop  -- NOP, R195
  /-- The handler of every opcode byte outside the core set; `op` is that byte (R67, 48_nop_unsupported.md R196). -/
  | unsupported (op : Byte)
deriving DecidableEq, Repr

end Sys2Proof
end

