-- ==== Sys2Proof/WellFormed.lean ====
section
/-! DEFINITION. Which terms of `Instr` the core can fetch. Operands are typed bytes and words, and "any byte value is a legal operand" (30_encoding.md R68), so the one check is on the opcode byte that `unsupported` carries. -/

namespace Sys2Proof

/-- The 61 opcode bytes of the core set (30_encoding.md R66), family by family. -/
def coreOpcodes : List Byte :=
  [0xA9#8, 0xA5#8, 0xB5#8, 0xAD#8, 0xBD#8, 0xB9#8, 0xA2#8, 0xA6#8, 0xB6#8, 0xAE#8, 0xBE#8, 0xA0#8, 0xA4#8, 0xB4#8, 0xAC#8, 0xBC#8] ++  -- Load
  [0x85#8, 0x95#8, 0x8D#8, 0x9D#8, 0x99#8, 0x86#8, 0x96#8, 0x8E#8, 0x84#8, 0x94#8, 0x8C#8] ++  -- Store
  [0xAA#8, 0xA8#8, 0x8A#8, 0x98#8, 0xBA#8, 0x9A#8] ++  -- Transfer
  [0xE6#8, 0xF6#8, 0xEE#8, 0xFE#8, 0xC6#8, 0xD6#8, 0xCE#8, 0xDE#8, 0xE8#8, 0xC8#8, 0xCA#8, 0x88#8] ++  -- Increment and decrement
  [0x29#8, 0x25#8, 0x35#8, 0x2D#8, 0x3D#8, 0x39#8] ++  -- Logical
  [0x38#8, 0xF8#8, 0x78#8, 0x18#8, 0xD8#8, 0x58#8, 0xB8#8] ++  -- Flag set and clear
  [0x4C#8, 0x6C#8] ++  -- Jump
  [0xEA#8]  -- No operation

/-- An instruction is well formed if it can be fetched: `unsupported op` only with `op` outside the core set (30_encoding.md R67). -/
def Instr.wf : Instr → Bool
  | .unsupported op => !coreOpcodes.contains op
  | .ldaImm _ => true
  | .ldaZp _ => true
  | .ldaZpX _ => true
  | .ldaAbs _ => true
  | .ldaAbsX _ => true
  | .ldaAbsY _ => true
  | .ldxImm _ => true
  | .ldxZp _ => true
  | .ldxZpY _ => true
  | .ldxAbs _ => true
  | .ldxAbsY _ => true
  | .ldyImm _ => true
  | .ldyZp _ => true
  | .ldyZpX _ => true
  | .ldyAbs _ => true
  | .ldyAbsX _ => true
  | .staZp _ => true
  | .staZpX _ => true
  | .staAbs _ => true
  | .staAbsX _ => true
  | .staAbsY _ => true
  | .stxZp _ => true
  | .stxZpY _ => true
  | .stxAbs _ => true
  | .styZp _ => true
  | .styZpX _ => true
  | .styAbs _ => true
  | .tax => true
  | .tay => true
  | .txa => true
  | .tya => true
  | .tsx => true
  | .txs => true
  | .incZp _ => true
  | .incZpX _ => true
  | .incAbs _ => true
  | .incAbsX _ => true
  | .decZp _ => true
  | .decZpX _ => true
  | .decAbs _ => true
  | .decAbsX _ => true
  | .inx => true
  | .iny => true
  | .dex => true
  | .dey => true
  | .andImm _ => true
  | .andZp _ => true
  | .andZpX _ => true
  | .andAbs _ => true
  | .andAbsX _ => true
  | .andAbsY _ => true
  | .sec => true
  | .sed => true
  | .sei => true
  | .clc => true
  | .cld => true
  | .cli => true
  | .clv => true
  | .jmpAbs _ => true
  | .jmpInd _ => true
  | .nop => true

end Sys2Proof
end

