-- ==== Sys2Proof/Decode.lean ====
section
/-! DEFINITION. Decode and encode (30_encoding.md). The opcode bytes are the standard NMOS 6502 ones, which the spec supplies from general knowledge (log 3). -/

namespace Sys2Proof

/-- An operand word from its two bytes, `(hh << 8) | ll` (30_encoding.md R64, 00_scope.md R12). -/
def wordOf (hh ll : Byte) : Addr := (hh.setWidth 16 <<< 8) ||| ll.setWidth 16

/-- Bits 7:0 of a word: the operand byte that stands first in memory (30_encoding.md R61, R64). -/
def lowByte (w : Addr) : Byte := w.extractLsb' 0 8

/-- Bits 15:8 of a word: the operand byte that stands second in memory (30_encoding.md R61, R64). -/
def highByte (w : Addr) : Byte := w.extractLsb' 8 8

/-- The dispatch table (30_encoding.md R65, R66, R67): the handler that the opcode byte selects, with the operand bytes its format gives it. `b1` and `b2` are the two bytes after the opcode; a shorter format does not look at them. -/
def dispatch (op b1 b2 : Byte) : Instr :=
  match op with
  | 0xA9#8 => .ldaImm b1
  | 0xA5#8 => .ldaZp b1
  | 0xB5#8 => .ldaZpX b1
  | 0xAD#8 => .ldaAbs (wordOf b2 b1)
  | 0xBD#8 => .ldaAbsX (wordOf b2 b1)
  | 0xB9#8 => .ldaAbsY (wordOf b2 b1)
  | 0xA2#8 => .ldxImm b1
  | 0xA6#8 => .ldxZp b1
  | 0xB6#8 => .ldxZpY b1
  | 0xAE#8 => .ldxAbs (wordOf b2 b1)
  | 0xBE#8 => .ldxAbsY (wordOf b2 b1)
  | 0xA0#8 => .ldyImm b1
  | 0xA4#8 => .ldyZp b1
  | 0xB4#8 => .ldyZpX b1
  | 0xAC#8 => .ldyAbs (wordOf b2 b1)
  | 0xBC#8 => .ldyAbsX (wordOf b2 b1)
  | 0x85#8 => .staZp b1
  | 0x95#8 => .staZpX b1
  | 0x8D#8 => .staAbs (wordOf b2 b1)
  | 0x9D#8 => .staAbsX (wordOf b2 b1)
  | 0x99#8 => .staAbsY (wordOf b2 b1)
  | 0x86#8 => .stxZp b1
  | 0x96#8 => .stxZpY b1
  | 0x8E#8 => .stxAbs (wordOf b2 b1)
  | 0x84#8 => .styZp b1
  | 0x94#8 => .styZpX b1
  | 0x8C#8 => .styAbs (wordOf b2 b1)
  | 0xAA#8 => .tax
  | 0xA8#8 => .tay
  | 0x8A#8 => .txa
  | 0x98#8 => .tya
  | 0xBA#8 => .tsx
  | 0x9A#8 => .txs
  | 0xE6#8 => .incZp b1
  | 0xF6#8 => .incZpX b1
  | 0xEE#8 => .incAbs (wordOf b2 b1)
  | 0xFE#8 => .incAbsX (wordOf b2 b1)
  | 0xC6#8 => .decZp b1
  | 0xD6#8 => .decZpX b1
  | 0xCE#8 => .decAbs (wordOf b2 b1)
  | 0xDE#8 => .decAbsX (wordOf b2 b1)
  | 0xE8#8 => .inx
  | 0xC8#8 => .iny
  | 0xCA#8 => .dex
  | 0x88#8 => .dey
  | 0x29#8 => .andImm b1
  | 0x25#8 => .andZp b1
  | 0x35#8 => .andZpX b1
  | 0x2D#8 => .andAbs (wordOf b2 b1)
  | 0x3D#8 => .andAbsX (wordOf b2 b1)
  | 0x39#8 => .andAbsY (wordOf b2 b1)
  | 0x38#8 => .sec
  | 0xF8#8 => .sed
  | 0x78#8 => .sei
  | 0x18#8 => .clc
  | 0xD8#8 => .cld
  | 0x58#8 => .cli
  | 0xB8#8 => .clv
  | 0x4C#8 => .jmpAbs (wordOf b2 b1)
  | 0x6C#8 => .jmpInd (wordOf b2 b1)
  | 0xEA#8 => .nop
  | op => .unsupported op

/-- The addressing mode of a handler (30_encoding.md R66). -/
def Instr.mode : Instr → AddrMode
  | .ldaImm _ => .immediate
  | .ldaZp _ => .zeroPage
  | .ldaZpX _ => .zeroPageX
  | .ldaAbs _ => .absolute
  | .ldaAbsX _ => .absoluteX
  | .ldaAbsY _ => .absoluteY
  | .ldxImm _ => .immediate
  | .ldxZp _ => .zeroPage
  | .ldxZpY _ => .zeroPageY
  | .ldxAbs _ => .absolute
  | .ldxAbsY _ => .absoluteY
  | .ldyImm _ => .immediate
  | .ldyZp _ => .zeroPage
  | .ldyZpX _ => .zeroPageX
  | .ldyAbs _ => .absolute
  | .ldyAbsX _ => .absoluteX
  | .staZp _ => .zeroPage
  | .staZpX _ => .zeroPageX
  | .staAbs _ => .absolute
  | .staAbsX _ => .absoluteX
  | .staAbsY _ => .absoluteY
  | .stxZp _ => .zeroPage
  | .stxZpY _ => .zeroPageY
  | .stxAbs _ => .absolute
  | .styZp _ => .zeroPage
  | .styZpX _ => .zeroPageX
  | .styAbs _ => .absolute
  | .tax => .implied
  | .tay => .implied
  | .txa => .implied
  | .tya => .implied
  | .tsx => .implied
  | .txs => .implied
  | .incZp _ => .zeroPage
  | .incZpX _ => .zeroPageX
  | .incAbs _ => .absolute
  | .incAbsX _ => .absoluteX
  | .decZp _ => .zeroPage
  | .decZpX _ => .zeroPageX
  | .decAbs _ => .absolute
  | .decAbsX _ => .absoluteX
  | .inx => .implied
  | .iny => .implied
  | .dex => .implied
  | .dey => .implied
  | .andImm _ => .immediate
  | .andZp _ => .zeroPage
  | .andZpX _ => .zeroPageX
  | .andAbs _ => .absolute
  | .andAbsX _ => .absoluteX
  | .andAbsY _ => .absoluteY
  | .sec => .implied
  | .sed => .implied
  | .sei => .implied
  | .clc => .implied
  | .cld => .implied
  | .cli => .implied
  | .clv => .implied
  | .jmpAbs _ => .absolute
  | .jmpInd _ => .indirect
  | .nop => .implied
  | .unsupported _ => .implied

/-- The instruction length of a mode in bytes, opcode included (30_encoding.md R60, R61). -/
def AddrMode.length : AddrMode → Nat
  | .implied => 1
  | .immediate | .zeroPage | .zeroPageX | .zeroPageY => 2
  | .absolute | .absoluteX | .absoluteY | .indirect => 3

/-- The length of an instruction in bytes (30_encoding.md R60). -/
def Instr.length (i : Instr) : Nat := i.mode.length

/-- The length of the instruction an opcode byte begins: "a function of byte 0 alone" (30_encoding.md R60, R69). -/
def lengthOf (op : Byte) : Nat := (dispatch op 0 0).length

/-- Why a list of bytes holds no instruction: it ends too early. Nothing else is rejected, and the machine never meets either reason, since a fetch always finds a byte (30_encoding.md R69, log 12). -/
inductive DecodeError where
  /-- The list is empty: no opcode byte. -/
  | noOpcode
  /-- The list ends before the operand bytes that `op` asks for. -/
  | missingOperand (op : Byte)
deriving DecidableEq, Repr

/-- Decode the instruction at the head of a list of bytes, and give the bytes after it (30_encoding.md R60, R65). -/
def decode : List Byte → Except DecodeError (Instr × List Byte)
  | [] => .error .noOpcode
  | op :: rest =>
    match lengthOf op, rest with
    | 1, rest => .ok (dispatch op 0 0, rest)
    | 2, nn :: rest => .ok (dispatch op nn 0, rest)
    | 3, ll :: hh :: rest => .ok (dispatch op ll hh, rest)
    | _, _ => .error (.missingOperand op)

/-- The bytes of an opcode-table word: bit 0 is the least significant bit of the first byte, and every bit from `nbits` up is 0. -/
def tableBytes (nbits w : Nat) : List Byte :=
  let v := w % 2 ^ nbits
  [BitVec.ofNat 8 v, BitVec.ofNat 8 (v / 256), BitVec.ofNat 8 (v / 65536)]

/-- What the decoder reads from an opcode-table word. -/
def decodeTableWord (nbits w : Nat) : Option Instr :=
  match decode (tableBytes nbits w) with
  | .ok (i, _) => some i
  | .error _ => none

/-- The opcode byte of an instruction, from the table of 30_encoding.md R66. -/
def Instr.opcode : Instr → Byte
  | .ldaImm _ => 0xA9
  | .ldaZp _ => 0xA5
  | .ldaZpX _ => 0xB5
  | .ldaAbs _ => 0xAD
  | .ldaAbsX _ => 0xBD
  | .ldaAbsY _ => 0xB9
  | .ldxImm _ => 0xA2
  | .ldxZp _ => 0xA6
  | .ldxZpY _ => 0xB6
  | .ldxAbs _ => 0xAE
  | .ldxAbsY _ => 0xBE
  | .ldyImm _ => 0xA0
  | .ldyZp _ => 0xA4
  | .ldyZpX _ => 0xB4
  | .ldyAbs _ => 0xAC
  | .ldyAbsX _ => 0xBC
  | .staZp _ => 0x85
  | .staZpX _ => 0x95
  | .staAbs _ => 0x8D
  | .staAbsX _ => 0x9D
  | .staAbsY _ => 0x99
  | .stxZp _ => 0x86
  | .stxZpY _ => 0x96
  | .stxAbs _ => 0x8E
  | .styZp _ => 0x84
  | .styZpX _ => 0x94
  | .styAbs _ => 0x8C
  | .tax => 0xAA
  | .tay => 0xA8
  | .txa => 0x8A
  | .tya => 0x98
  | .tsx => 0xBA
  | .txs => 0x9A
  | .incZp _ => 0xE6
  | .incZpX _ => 0xF6
  | .incAbs _ => 0xEE
  | .incAbsX _ => 0xFE
  | .decZp _ => 0xC6
  | .decZpX _ => 0xD6
  | .decAbs _ => 0xCE
  | .decAbsX _ => 0xDE
  | .inx => 0xE8
  | .iny => 0xC8
  | .dex => 0xCA
  | .dey => 0x88
  | .andImm _ => 0x29
  | .andZp _ => 0x25
  | .andZpX _ => 0x35
  | .andAbs _ => 0x2D
  | .andAbsX _ => 0x3D
  | .andAbsY _ => 0x39
  | .sec => 0x38
  | .sed => 0xF8
  | .sei => 0x78
  | .clc => 0x18
  | .cld => 0xD8
  | .cli => 0x58
  | .clv => 0xB8
  | .jmpAbs _ => 0x4C
  | .jmpInd _ => 0x6C
  | .nop => 0xEA
  | .unsupported op => op

/-- The operand bytes of an instruction in memory order: none, `nn`, or `ll` then `hh` (30_encoding.md R61, formats F1, F2 and F3). -/
def Instr.operandBytes : Instr → List Byte
  | .ldaImm v => [v]
  | .ldaZp nn => [nn]
  | .ldaZpX nn => [nn]
  | .ldaAbs w => [lowByte w, highByte w]
  | .ldaAbsX w => [lowByte w, highByte w]
  | .ldaAbsY w => [lowByte w, highByte w]
  | .ldxImm v => [v]
  | .ldxZp nn => [nn]
  | .ldxZpY nn => [nn]
  | .ldxAbs w => [lowByte w, highByte w]
  | .ldxAbsY w => [lowByte w, highByte w]
  | .ldyImm v => [v]
  | .ldyZp nn => [nn]
  | .ldyZpX nn => [nn]
  | .ldyAbs w => [lowByte w, highByte w]
  | .ldyAbsX w => [lowByte w, highByte w]
  | .staZp nn => [nn]
  | .staZpX nn => [nn]
  | .staAbs w => [lowByte w, highByte w]
  | .staAbsX w => [lowByte w, highByte w]
  | .staAbsY w => [lowByte w, highByte w]
  | .stxZp nn => [nn]
  | .stxZpY nn => [nn]
  | .stxAbs w => [lowByte w, highByte w]
  | .styZp nn => [nn]
  | .styZpX nn => [nn]
  | .styAbs w => [lowByte w, highByte w]
  | .tax => []
  | .tay => []
  | .txa => []
  | .tya => []
  | .tsx => []
  | .txs => []
  | .incZp nn => [nn]
  | .incZpX nn => [nn]
  | .incAbs w => [lowByte w, highByte w]
  | .incAbsX w => [lowByte w, highByte w]
  | .decZp nn => [nn]
  | .decZpX nn => [nn]
  | .decAbs w => [lowByte w, highByte w]
  | .decAbsX w => [lowByte w, highByte w]
  | .inx => []
  | .iny => []
  | .dex => []
  | .dey => []
  | .andImm v => [v]
  | .andZp nn => [nn]
  | .andZpX nn => [nn]
  | .andAbs w => [lowByte w, highByte w]
  | .andAbsX w => [lowByte w, highByte w]
  | .andAbsY w => [lowByte w, highByte w]
  | .sec => []
  | .sed => []
  | .sei => []
  | .clc => []
  | .cld => []
  | .cli => []
  | .clv => []
  | .jmpAbs w => [lowByte w, highByte w]
  | .jmpInd w => [lowByte w, highByte w]
  | .nop => []
  | .unsupported _ => []

/-- The bytes of an instruction (30_encoding.md R60, R61). -/
def encode (i : Instr) : List Byte := i.opcode :: i.operandBytes

/-- The handler name of an instruction (30_encoding.md R66, R71), for the step report (40_engine_addressing.md R96). -/
def Instr.handlerName : Instr → String
  | .ldaImm _ => "LDA_IMM"
  | .ldaZp _ => "LDA_ZP"
  | .ldaZpX _ => "LDA_ZPX"
  | .ldaAbs _ => "LDA_ABS"
  | .ldaAbsX _ => "LDA_ABSX"
  | .ldaAbsY _ => "LDA_ABSY"
  | .ldxImm _ => "LDX_IMM"
  | .ldxZp _ => "LDX_ZP"
  | .ldxZpY _ => "LDX_ZPY"
  | .ldxAbs _ => "LDX_ABS"
  | .ldxAbsY _ => "LDX_ABSY"
  | .ldyImm _ => "LDY_IMM"
  | .ldyZp _ => "LDY_ZP"
  | .ldyZpX _ => "LDY_ZPX"
  | .ldyAbs _ => "LDY_ABS"
  | .ldyAbsX _ => "LDY_ABSX"
  | .staZp _ => "STA_ZP"
  | .staZpX _ => "STA_ZPX"
  | .staAbs _ => "STA_ABS"
  | .staAbsX _ => "STA_ABSX"
  | .staAbsY _ => "STA_ABSY"
  | .stxZp _ => "STX_ZP"
  | .stxZpY _ => "STX_ZPY"
  | .stxAbs _ => "STX_ABS"
  | .styZp _ => "STY_ZP"
  | .styZpX _ => "STY_ZPX"
  | .styAbs _ => "STY_ABS"
  | .tax => "TAX"
  | .tay => "TAY"
  | .txa => "TXA"
  | .tya => "TYA"
  | .tsx => "TSX"
  | .txs => "TXS"
  | .incZp _ => "INC_ZP"
  | .incZpX _ => "INC_ZPX"
  | .incAbs _ => "INC_ABS"
  | .incAbsX _ => "INC_ABSX"
  | .decZp _ => "DEC_ZP"
  | .decZpX _ => "DEC_ZPX"
  | .decAbs _ => "DEC_ABS"
  | .decAbsX _ => "DEC_ABSX"
  | .inx => "INX"
  | .iny => "INY"
  | .dex => "DEX"
  | .dey => "DEY"
  | .andImm _ => "AND_IMM"
  | .andZp _ => "AND_ZP"
  | .andZpX _ => "AND_ZPX"
  | .andAbs _ => "AND_ABS"
  | .andAbsX _ => "AND_ABSX"
  | .andAbsY _ => "AND_ABSY"
  | .sec => "SEC"
  | .sed => "SED"
  | .sei => "SEI"
  | .clc => "CLC"
  | .cld => "CLD"
  | .cli => "CLI"
  | .clv => "CLV"
  | .jmpAbs _ => "JMP_ABS"
  | .jmpInd _ => "JMP_IND"
  | .nop => "NOP"
  | .unsupported _ => "UNSUPPORTED"

/-- The mnemonic of an instruction (30_encoding.md R66, R71); the unsupported handler has none of its own, and is named `UNSUPPORTED` as in the step report (40_engine_addressing.md R96). -/
def Instr.mnemonic : Instr → String
  | .ldaImm _ => "LDA"
  | .ldaZp _ => "LDA"
  | .ldaZpX _ => "LDA"
  | .ldaAbs _ => "LDA"
  | .ldaAbsX _ => "LDA"
  | .ldaAbsY _ => "LDA"
  | .ldxImm _ => "LDX"
  | .ldxZp _ => "LDX"
  | .ldxZpY _ => "LDX"
  | .ldxAbs _ => "LDX"
  | .ldxAbsY _ => "LDX"
  | .ldyImm _ => "LDY"
  | .ldyZp _ => "LDY"
  | .ldyZpX _ => "LDY"
  | .ldyAbs _ => "LDY"
  | .ldyAbsX _ => "LDY"
  | .staZp _ => "STA"
  | .staZpX _ => "STA"
  | .staAbs _ => "STA"
  | .staAbsX _ => "STA"
  | .staAbsY _ => "STA"
  | .stxZp _ => "STX"
  | .stxZpY _ => "STX"
  | .stxAbs _ => "STX"
  | .styZp _ => "STY"
  | .styZpX _ => "STY"
  | .styAbs _ => "STY"
  | .tax => "TAX"
  | .tay => "TAY"
  | .txa => "TXA"
  | .tya => "TYA"
  | .tsx => "TSX"
  | .txs => "TXS"
  | .incZp _ => "INC"
  | .incZpX _ => "INC"
  | .incAbs _ => "INC"
  | .incAbsX _ => "INC"
  | .decZp _ => "DEC"
  | .decZpX _ => "DEC"
  | .decAbs _ => "DEC"
  | .decAbsX _ => "DEC"
  | .inx => "INX"
  | .iny => "INY"
  | .dex => "DEX"
  | .dey => "DEY"
  | .andImm _ => "AND"
  | .andZp _ => "AND"
  | .andZpX _ => "AND"
  | .andAbs _ => "AND"
  | .andAbsX _ => "AND"
  | .andAbsY _ => "AND"
  | .sec => "SEC"
  | .sed => "SED"
  | .sei => "SEI"
  | .clc => "CLC"
  | .cld => "CLD"
  | .cli => "CLI"
  | .clv => "CLV"
  | .jmpAbs _ => "JMP"
  | .jmpInd _ => "JMP"
  | .nop => "NOP"
  | .unsupported _ => "UNSUPPORTED"

end Sys2Proof
end

