-- ==== Sys2Proof/Machine/Ops.lean ====
section
/-! DEFINITION. The named operations over registers and memory. Every register access and every memory access of an instruction goes through one of these. There is no operation for taking an exception or returning from one: the core has neither (60_exceptions.md R200, R203, R204). -/

namespace Sys2Proof.Machine

/-- The value of a register (10_state.md R22, R23, R24). -/
def State.reg (s : State) : Reg → Byte
  | .a => s.a
  | .x => s.x
  | .y => s.y
  | .sp => s.sp

/-- `R <- v` (00_scope.md R13). No register is hard-wired, aliased or banked (10_state.md R24). -/
def State.setReg (s : State) (r : Reg) (v : Byte) : State :=
  match r with
  | .a => { s with a := v }
  | .x => { s with x := v }
  | .y => { s with y := v }
  | .sp => { s with sp := v }

/-- `PC <- target` (00_scope.md R13). -/
def State.setPc (s : State) (target : Addr) : State := { s with pc := target }

/-- `MemRead(a, 1)`: the byte at `a`; `last_read` becomes `a` and nothing else changes (20_memory.md R41). -/
def memRead (s : State) (a : Addr) : Byte × State :=
  (s.mem.read a, { s with lastRead := some a })

/-- `MemWrite(a, 1, v)`: the byte at `a` and `last_write` change and nothing else (20_memory.md R42). -/
def memWrite (s : State) (a : Addr) (v : Byte) : State :=
  { s with mem := s.mem.write a v, lastWrite := some a }

/-- `FetchByte()`: read the byte at PC and advance PC by 1, modulo 65536 (40_engine_addressing.md R83). The opcode fetch makes the same access (R81). -/
def fetchByte (s : State) : Byte × State :=
  let (b, s1) := memRead s s.pc
  (b, s1.setPc (s1.pc + 1))

/-- `FetchWord()`: a little-endian operand word, low byte first (40_engine_addressing.md R84, 20_memory.md R44). -/
def fetchWord (s : State) : Addr × State :=
  let (lo, s1) := fetchByte s
  let (hi, s2) := fetchByte s1
  (wordOf hi lo, s2)

/-- Fetch one instruction: the opcode, then as many operand bytes as its format has, in rising address order (40_engine_addressing.md R81, 20_memory.md R51). PC ends past the instruction and `last_read` at its last byte. Nothing is written between these reads and the handler's own work, so taking the operand bytes here is what the handler's own `FetchByte` would give (log 15). -/
def fetchInstr (s : State) : Instr × State :=
  let (op, s1) := fetchByte s
  match lengthOf op with
  | 1 => (dispatch op 0 0, s1)
  | 2 =>
    let (b1, s2) := fetchByte s1
    (dispatch op b1 0, s2)
  | _ =>
    let (b1, s2) := fetchByte s1
    let (b2, s3) := fetchByte s2
    (dispatch op b1 b2, s3)

end Sys2Proof.Machine
end

