-- ==== Sys2Proof/Machine/Operands.lean ====
section
/-! DEFINITION. The addressing-mode resolver (40_engine_addressing.md R86 to R94). Each function takes the operand that the fetch read, and gives the address the mode resolves to. -/

namespace Sys2Proof.Machine

/-- `zext_16(b)` (00_scope.md R12). -/
def zext16 (b : Byte) : Addr := b.setWidth 16

/-- Zero Page: the operand byte names an address in page zero (40_engine_addressing.md R87, 30_encoding.md R63). -/
def eaZp (nn : Byte) : Addr := zext16 nn

/-- Zero Page,X: the 8-bit sum with X, wrapping in page zero (40_engine_addressing.md R88). -/
def eaZpX (nn : Byte) (s : State) : Addr := zext16 (nn + s.x)

/-- Zero Page,Y: the 8-bit sum with Y, wrapping in page zero (40_engine_addressing.md R89). -/
def eaZpY (nn : Byte) (s : State) : Addr := zext16 (nn + s.y)

/-- Absolute: the operand word itself (40_engine_addressing.md R90). -/
def eaAbs (w : Addr) : Addr := w

/-- Absolute,X: the 16-bit sum with X, modulo 65536 (40_engine_addressing.md R91, log 8). -/
def eaAbsX (w : Addr) (s : State) : Addr := w + zext16 s.x

/-- Absolute,Y: the 16-bit sum with Y, modulo 65536 (40_engine_addressing.md R92, log 8). -/
def eaAbsY (w : Addr) (s : State) : Addr := w + zext16 s.y

/-- Indirect: the little-endian word read at `ptr` and `(ptr + 1) mod 65536`, low byte first, with no wrap inside the page (40_engine_addressing.md R93, log 7). -/
def eaInd (ptr : Addr) (s : State) : Addr × State :=
  let (lo, s1) := memRead s ptr
  let (hi, s2) := memRead s1 (ptr + 1)
  (wordOf hi lo, s2)

end Sys2Proof.Machine
end

