-- ==== Sys2Proof/Machine/Shared.lean ====
section
/-! DEFINITION. The operations that instruction meanings share: one per pseudocode shape of 41_load.md to 45_logical.md. They run on the state after the fetch. -/

namespace Sys2Proof.Machine

/-- `R <- v; SetZN(v)`: a result byte into a register with its flags (41_load.md, 43_transfer.md, 44_incdec.md, 45_logical.md). -/
def result (r : Reg) (v : Byte) (s : State) : State := (s.setReg r v).setZN v

/-- `v <- MemRead(ea, 1); R <- v; SetZN(v)` (41_load.md). -/
def load (r : Reg) (ea : Addr) (s : State) : State :=
  let (v, s1) := memRead s ea
  result r v s1

/-- `MemWrite(ea, 1, R)`: no flag changes (42_store.md). -/
def store (r : Reg) (ea : Addr) (s : State) : State := memWrite s ea (s.reg r)

/-- `v <- src; dst <- v; SetZN(v)` (43_transfer.md). -/
def transfer (src dst : Reg) (s : State) : State := result dst (s.reg src) s

/-- `(v + 1) mod 256` (44_incdec.md). -/
def inc (v : Byte) : Byte := v + 1

/-- `(v + 255) mod 256` (44_incdec.md). -/
def dec (v : Byte) : Byte := v + 255

/-- `v <- MemRead(ea, 1); r <- f(v); MemWrite(ea, 1, r); SetZN(r)`: one read and one write of `ea` (44_incdec.md R150 to R157, log 9). -/
def modifyMem (f : Byte → Byte) (ea : Addr) (s : State) : State :=
  let (v, s1) := memRead s ea
  (memWrite s1 ea (f v)).setZN (f v)

/-- `v <- R; r <- f(v); R <- r; SetZN(r)` (44_incdec.md R158 to R161). -/
def modifyReg (f : Byte → Byte) (r : Reg) (s : State) : State := result r (f (s.reg r)) s

/-- `r <- A & v; A <- r; SetZN(r)` (45_logical.md). -/
def andA (v : Byte) (s : State) : State := result .a (s.reg .a &&& v) s

/-- `v <- MemRead(ea, 1)`, then the AND into A (45_logical.md R171 to R175). -/
def andMem (ea : Addr) (s : State) : State :=
  let (v, s1) := memRead s ea
  andA v s1

end Sys2Proof.Machine
end

