-- ==== Sys2Proof/Machine/FlagOps.lean ====
section
/-! DEFINITION. The flag set and clear instructions (46_flag.md R180 to R186), each on the state after its bytes are fetched. -/

namespace Sys2Proof.Machine

/-- SEC (46_flag.md R180): `SetFlags(0x01)`, that is `P.C <- 1`. -/
def execSec (s : State) : Outcome :=
  .next (s.setFlags maskC)

/-- SED (46_flag.md R181): `SetFlags(0x08)`, that is `P.D <- 1`. -/
def execSed (s : State) : Outcome :=
  .next (s.setFlags maskD)

/-- SEI (46_flag.md R182): `SetFlags(0x04)`, that is `P.I <- 1`. -/
def execSei (s : State) : Outcome :=
  .next (s.setFlags maskI)

/-- CLC (46_flag.md R183): `ClearFlags(0x01)`, that is `P.C <- 0`. -/
def execClc (s : State) : Outcome :=
  .next (s.clearFlags maskC)

/-- CLD (46_flag.md R184): `ClearFlags(0x08)`, that is `P.D <- 0`. -/
def execCld (s : State) : Outcome :=
  .next (s.clearFlags maskD)

/-- CLI (46_flag.md R185): `ClearFlags(0x04)`, that is `P.I <- 0`. -/
def execCli (s : State) : Outcome :=
  .next (s.clearFlags maskI)

/-- CLV (46_flag.md R186): `ClearFlags(0x40)`, that is `P.V <- 0`. -/
def execClv (s : State) : Outcome :=
  .next (s.clearFlags maskV)

end Sys2Proof.Machine
end

