-- ==== Sys2Proof/Machine/IncDec.lean ====
section
/-! DEFINITION. The increment and decrement instructions (44_incdec.md R150 to R161), each on the state after its bytes are fetched. -/

namespace Sys2Proof.Machine

/-- INC_ZP (44_incdec.md R150): `ea <- EA_ZP(); v <- MemRead(ea, 1); r <- (v + 1) mod 256; MemWrite(ea, 1, r); SetZN(r)`. -/
def execIncZp (nn : Byte) (s : State) : Outcome :=
  .next (modifyMem inc (eaZp nn) s)

/-- INC_ZPX (44_incdec.md R151): `ea <- EA_ZPX(); v <- MemRead(ea, 1); r <- (v + 1) mod 256; MemWrite(ea, 1, r); SetZN(r)`. -/
def execIncZpX (nn : Byte) (s : State) : Outcome :=
  .next (modifyMem inc (eaZpX nn s) s)

/-- INC_ABS (44_incdec.md R152): `ea <- EA_ABS(); v <- MemRead(ea, 1); r <- (v + 1) mod 256; MemWrite(ea, 1, r); SetZN(r)`. -/
def execIncAbs (w : Addr) (s : State) : Outcome :=
  .next (modifyMem inc (eaAbs w) s)

/-- INC_ABSX (44_incdec.md R153): `ea <- EA_ABSX(); v <- MemRead(ea, 1); r <- (v + 1) mod 256; MemWrite(ea, 1, r); SetZN(r)`. -/
def execIncAbsX (w : Addr) (s : State) : Outcome :=
  .next (modifyMem inc (eaAbsX w s) s)

/-- DEC_ZP (44_incdec.md R154): `ea <- EA_ZP(); v <- MemRead(ea, 1); r <- (v + 255) mod 256; MemWrite(ea, 1, r); SetZN(r)`. -/
def execDecZp (nn : Byte) (s : State) : Outcome :=
  .next (modifyMem dec (eaZp nn) s)

/-- DEC_ZPX (44_incdec.md R155): `ea <- EA_ZPX(); v <- MemRead(ea, 1); r <- (v + 255) mod 256; MemWrite(ea, 1, r); SetZN(r)`. -/
def execDecZpX (nn : Byte) (s : State) : Outcome :=
  .next (modifyMem dec (eaZpX nn s) s)

/-- DEC_ABS (44_incdec.md R156): `ea <- EA_ABS(); v <- MemRead(ea, 1); r <- (v + 255) mod 256; MemWrite(ea, 1, r); SetZN(r)`. -/
def execDecAbs (w : Addr) (s : State) : Outcome :=
  .next (modifyMem dec (eaAbs w) s)

/-- DEC_ABSX (44_incdec.md R157): `ea <- EA_ABSX(); v <- MemRead(ea, 1); r <- (v + 255) mod 256; MemWrite(ea, 1, r); SetZN(r)`. -/
def execDecAbsX (w : Addr) (s : State) : Outcome :=
  .next (modifyMem dec (eaAbsX w s) s)

/-- INX (44_incdec.md R158): `v <- X; r <- (v + 1) mod 256; X <- r; SetZN(r)`. -/
def execInx (s : State) : Outcome :=
  .next (modifyReg inc .x s)

/-- INY (44_incdec.md R159): `v <- Y; r <- (v + 1) mod 256; Y <- r; SetZN(r)`. -/
def execIny (s : State) : Outcome :=
  .next (modifyReg inc .y s)

/-- DEX (44_incdec.md R160): `v <- X; r <- (v + 255) mod 256; X <- r; SetZN(r)`. -/
def execDex (s : State) : Outcome :=
  .next (modifyReg dec .x s)

/-- DEY (44_incdec.md R161): `v <- Y; r <- (v + 255) mod 256; Y <- r; SetZN(r)`. -/
def execDey (s : State) : Outcome :=
  .next (modifyReg dec .y s)

end Sys2Proof.Machine
end

