-- ==== Sys2Proof/Machine/Jump.lean ====
section
/-! DEFINITION. The jump instructions (47_jump.md R190 to R191), each on the state after its bytes are fetched. -/

namespace Sys2Proof.Machine

/-- JMP_ABS (47_jump.md R190): `target <- EA_ABS(); PC <- target`. -/
def execJmpAbs (w : Addr) (s : State) : Outcome :=
  .next (s.setPc (eaAbs w))

/-- JMP_IND (47_jump.md R191): `target <- EA_IND(); PC <- target`. -/
def execJmpInd (w : Addr) (s : State) : Outcome :=
  let (target, s1) := eaInd w s
  .next (s1.setPc target)

end Sys2Proof.Machine
end

