-- ==== Sys2Proof/Machine/Load.lean ====
section
/-! DEFINITION. The load instructions (41_load.md R100 to R115), each on the state after its bytes are fetched. -/

namespace Sys2Proof.Machine

/-- LDA_IMM (41_load.md R100): `v <- FetchByte(); A <- v; SetZN(v)`. -/
def execLdaImm (v : Byte) (s : State) : Outcome :=
  .next (result .a v s)

/-- LDA_ZP (41_load.md R101): `ea <- EA_ZP(); v <- MemRead(ea, 1); A <- v; SetZN(v)`. -/
def execLdaZp (nn : Byte) (s : State) : Outcome :=
  .next (load .a (eaZp nn) s)

/-- LDA_ZPX (41_load.md R102): `ea <- EA_ZPX(); v <- MemRead(ea, 1); A <- v; SetZN(v)`. -/
def execLdaZpX (nn : Byte) (s : State) : Outcome :=
  .next (load .a (eaZpX nn s) s)

/-- LDA_ABS (41_load.md R103): `ea <- EA_ABS(); v <- MemRead(ea, 1); A <- v; SetZN(v)`. -/
def execLdaAbs (w : Addr) (s : State) : Outcome :=
  .next (load .a (eaAbs w) s)

/-- LDA_ABSX (41_load.md R104): `ea <- EA_ABSX(); v <- MemRead(ea, 1); A <- v; SetZN(v)`. -/
def execLdaAbsX (w : Addr) (s : State) : Outcome :=
  .next (load .a (eaAbsX w s) s)

/-- LDA_ABSY (41_load.md R105): `ea <- EA_ABSY(); v <- MemRead(ea, 1); A <- v; SetZN(v)`. -/
def execLdaAbsY (w : Addr) (s : State) : Outcome :=
  .next (load .a (eaAbsY w s) s)

/-- LDX_IMM (41_load.md R106): `v <- FetchByte(); X <- v; SetZN(v)`. -/
def execLdxImm (v : Byte) (s : State) : Outcome :=
  .next (result .x v s)

/-- LDX_ZP (41_load.md R107): `ea <- EA_ZP(); v <- MemRead(ea, 1); X <- v; SetZN(v)`. -/
def execLdxZp (nn : Byte) (s : State) : Outcome :=
  .next (load .x (eaZp nn) s)

/-- LDX_ZPY (41_load.md R108): `ea <- EA_ZPY(); v <- MemRead(ea, 1); X <- v; SetZN(v)`. -/
def execLdxZpY (nn : Byte) (s : State) : Outcome :=
  .next (load .x (eaZpY nn s) s)

/-- LDX_ABS (41_load.md R109): `ea <- EA_ABS(); v <- MemRead(ea, 1); X <- v; SetZN(v)`. -/
def execLdxAbs (w : Addr) (s : State) : Outcome :=
  .next (load .x (eaAbs w) s)

/-- LDX_ABSY (41_load.md R110): `ea <- EA_ABSY(); v <- MemRead(ea, 1); X <- v; SetZN(v)`. -/
def execLdxAbsY (w : Addr) (s : State) : Outcome :=
  .next (load .x (eaAbsY w s) s)

/-- LDY_IMM (41_load.md R111): `v <- FetchByte(); Y <- v; SetZN(v)`. -/
def execLdyImm (v : Byte) (s : State) : Outcome :=
  .next (result .y v s)

/-- LDY_ZP (41_load.md R112): `ea <- EA_ZP(); v <- MemRead(ea, 1); Y <- v; SetZN(v)`. -/
def execLdyZp (nn : Byte) (s : State) : Outcome :=
  .next (load .y (eaZp nn) s)

/-- LDY_ZPX (41_load.md R113): `ea <- EA_ZPX(); v <- MemRead(ea, 1); Y <- v; SetZN(v)`. -/
def execLdyZpX (nn : Byte) (s : State) : Outcome :=
  .next (load .y (eaZpX nn s) s)

/-- LDY_ABS (41_load.md R114): `ea <- EA_ABS(); v <- MemRead(ea, 1); Y <- v; SetZN(v)`. -/
def execLdyAbs (w : Addr) (s : State) : Outcome :=
  .next (load .y (eaAbs w) s)

/-- LDY_ABSX (41_load.md R115): `ea <- EA_ABSX(); v <- MemRead(ea, 1); Y <- v; SetZN(v)`. -/
def execLdyAbsX (w : Addr) (s : State) : Outcome :=
  .next (load .y (eaAbsX w s) s)

end Sys2Proof.Machine
end

