-- ==== Sys2Proof/Machine/Logical.lean ====
section
/-! DEFINITION. The logical instruction AND (45_logical.md R170 to R175), each on the state after its bytes are fetched. -/

namespace Sys2Proof.Machine

/-- AND_IMM (45_logical.md R170): `v <- FetchByte(); r <- A & v; A <- r; SetZN(r)`. -/
def execAndImm (v : Byte) (s : State) : Outcome :=
  .next (andA v s)

/-- AND_ZP (45_logical.md R171): `ea <- EA_ZP(); v <- MemRead(ea, 1); r <- A & v; A <- r; SetZN(r)`. -/
def execAndZp (nn : Byte) (s : State) : Outcome :=
  .next (andMem (eaZp nn) s)

/-- AND_ZPX (45_logical.md R172): `ea <- EA_ZPX(); v <- MemRead(ea, 1); r <- A & v; A <- r; SetZN(r)`. -/
def execAndZpX (nn : Byte) (s : State) : Outcome :=
  .next (andMem (eaZpX nn s) s)

/-- AND_ABS (45_logical.md R173): `ea <- EA_ABS(); v <- MemRead(ea, 1); r <- A & v; A <- r; SetZN(r)`. -/
def execAndAbs (w : Addr) (s : State) : Outcome :=
  .next (andMem (eaAbs w) s)

/-- AND_ABSX (45_logical.md R174): `ea <- EA_ABSX(); v <- MemRead(ea, 1); r <- A & v; A <- r; SetZN(r)`. -/
def execAndAbsX (w : Addr) (s : State) : Outcome :=
  .next (andMem (eaAbsX w s) s)

/-- AND_ABSY (45_logical.md R175): `ea <- EA_ABSY(); v <- MemRead(ea, 1); r <- A & v; A <- r; SetZN(r)`. -/
def execAndAbsY (w : Addr) (s : State) : Outcome :=
  .next (andMem (eaAbsY w s) s)

end Sys2Proof.Machine
end

