-- ==== Sys2Proof/Machine/Nop.lean ====
section
/-! DEFINITION. The no-operation instruction and the unsupported-opcode handler (48_nop_unsupported.md R195, R196), each on the state after its bytes are fetched. -/

namespace Sys2Proof.Machine

/-- NOP (48_nop_unsupported.md R195): nothing beyond the fetch. -/
def execNop (s : State) : Outcome :=
  .next s

/-- UNSUPPORTED (48_nop_unsupported.md R196): nothing beyond the fetch of the one opcode byte, whatever byte it is; no operand bytes are consumed and nothing else changes (log 5). -/
def execUnsupported (_op : Byte) (s : State) : Outcome :=
  .next s

end Sys2Proof.Machine
end

