-- ==== Sys2Proof/Machine/Store.lean ====
section
/-! DEFINITION. The store instructions (42_store.md R120 to R130), each on the state after its bytes are fetched. -/

namespace Sys2Proof.Machine

/-- STA_ZP (42_store.md R120): `ea <- EA_ZP(); MemWrite(ea, 1, A)`. -/
def execStaZp (nn : Byte) (s : State) : Outcome :=
  .next (store .a (eaZp nn) s)

/-- STA_ZPX (42_store.md R121): `ea <- EA_ZPX(); MemWrite(ea, 1, A)`. -/
def execStaZpX (nn : Byte) (s : State) : Outcome :=
  .next (store .a (eaZpX nn s) s)

/-- STA_ABS (42_store.md R122): `ea <- EA_ABS(); MemWrite(ea, 1, A)`. -/
def execStaAbs (w : Addr) (s : State) : Outcome :=
  .next (store .a (eaAbs w) s)

/-- STA_ABSX (42_store.md R123): `ea <- EA_ABSX(); MemWrite(ea, 1, A)`. -/
def execStaAbsX (w : Addr) (s : State) : Outcome :=
  .next (store .a (eaAbsX w s) s)

/-- STA_ABSY (42_store.md R124): `ea <- EA_ABSY(); MemWrite(ea, 1, A)`. -/
def execStaAbsY (w : Addr) (s : State) : Outcome :=
  .next (store .a (eaAbsY w s) s)

/-- STX_ZP (42_store.md R125): `ea <- EA_ZP(); MemWrite(ea, 1, X)`. -/
def execStxZp (nn : Byte) (s : State) : Outcome :=
  .next (store .x (eaZp nn) s)

/-- STX_ZPY (42_store.md R126): `ea <- EA_ZPY(); MemWrite(ea, 1, X)`. -/
def execStxZpY (nn : Byte) (s : State) : Outcome :=
  .next (store .x (eaZpY nn s) s)

/-- STX_ABS (42_store.md R127): `ea <- EA_ABS(); MemWrite(ea, 1, X)`. -/
def execStxAbs (w : Addr) (s : State) : Outcome :=
  .next (store .x (eaAbs w) s)

/-- STY_ZP (42_store.md R128): `ea <- EA_ZP(); MemWrite(ea, 1, Y)`. -/
def execStyZp (nn : Byte) (s : State) : Outcome :=
  .next (store .y (eaZp nn) s)

/-- STY_ZPX (42_store.md R129): `ea <- EA_ZPX(); MemWrite(ea, 1, Y)`. -/
def execStyZpX (nn : Byte) (s : State) : Outcome :=
  .next (store .y (eaZpX nn s) s)

/-- STY_ABS (42_store.md R130): `ea <- EA_ABS(); MemWrite(ea, 1, Y)`. -/
def execStyAbs (w : Addr) (s : State) : Outcome :=
  .next (store .y (eaAbs w) s)

end Sys2Proof.Machine
end

