-- ==== Sys2Proof/Machine/Transfer.lean ====
section
/-! DEFINITION. The transfer instructions (43_transfer.md R140 to R145), each on the state after its bytes are fetched. -/

namespace Sys2Proof.Machine

/-- TAX (43_transfer.md R140): `v <- A; X <- v; SetZN(v)`. -/
def execTax (s : State) : Outcome :=
  .next (transfer .a .x s)

/-- TAY (43_transfer.md R141): `v <- A; Y <- v; SetZN(v)`. -/
def execTay (s : State) : Outcome :=
  .next (transfer .a .y s)

/-- TXA (43_transfer.md R142): `v <- X; A <- v; SetZN(v)`. -/
def execTxa (s : State) : Outcome :=
  .next (transfer .x .a s)

/-- TYA (43_transfer.md R143): `v <- Y; A <- v; SetZN(v)`. -/
def execTya (s : State) : Outcome :=
  .next (transfer .y .a s)

/-- TSX (43_transfer.md R144): `v <- SP; X <- v; SetZN(v)`. -/
def execTsx (s : State) : Outcome :=
  .next (transfer .sp .x s)

/-- TXS (43_transfer.md R145): `v <- X; SP <- v`. -/
def execTxs (s : State) : Outcome :=
  .next (s.setReg .sp (s.reg .x))

end Sys2Proof.Machine
end

