-- ==== Sys2Proof/Machine/Dispatch.lean ====
section
/-! DEFINITION. From each instruction to its meaning (30_encoding.md R65). -/

namespace Sys2Proof.Machine

/-- Run the handler of an instruction on the state after its bytes are fetched. -/
def exec (i : Instr) (s : State) : Host.Outcome State Fault Refusal :=
  match i with
  | .ldaImm v => Sys2Proof.Machine.execLdaImm v s
  | .ldaZp nn => Sys2Proof.Machine.execLdaZp nn s
  | .ldaZpX nn => Sys2Proof.Machine.execLdaZpX nn s
  | .ldaAbs w => Sys2Proof.Machine.execLdaAbs w s
  | .ldaAbsX w => Sys2Proof.Machine.execLdaAbsX w s
  | .ldaAbsY w => Sys2Proof.Machine.execLdaAbsY w s
  | .ldxImm v => Sys2Proof.Machine.execLdxImm v s
  | .ldxZp nn => Sys2Proof.Machine.execLdxZp nn s
  | .ldxZpY nn => Sys2Proof.Machine.execLdxZpY nn s
  | .ldxAbs w => Sys2Proof.Machine.execLdxAbs w s
  | .ldxAbsY w => Sys2Proof.Machine.execLdxAbsY w s
  | .ldyImm v => Sys2Proof.Machine.execLdyImm v s
  | .ldyZp nn => Sys2Proof.Machine.execLdyZp nn s
  | .ldyZpX nn => Sys2Proof.Machine.execLdyZpX nn s
  | .ldyAbs w => Sys2Proof.Machine.execLdyAbs w s
  | .ldyAbsX w => Sys2Proof.Machine.execLdyAbsX w s
  | .staZp nn => Sys2Proof.Machine.execStaZp nn s
  | .staZpX nn => Sys2Proof.Machine.execStaZpX nn s
  | .staAbs w => Sys2Proof.Machine.execStaAbs w s
  | .staAbsX w => Sys2Proof.Machine.execStaAbsX w s
  | .staAbsY w => Sys2Proof.Machine.execStaAbsY w s
  | .stxZp nn => Sys2Proof.Machine.execStxZp nn s
  | .stxZpY nn => Sys2Proof.Machine.execStxZpY nn s
  | .stxAbs w => Sys2Proof.Machine.execStxAbs w s
  | .styZp nn => Sys2Proof.Machine.execStyZp nn s
  | .styZpX nn => Sys2Proof.Machine.execStyZpX nn s
  | .styAbs w => Sys2Proof.Machine.execStyAbs w s
  | .tax => Sys2Proof.Machine.execTax s
  | .tay => Sys2Proof.Machine.execTay s
  | .txa => Sys2Proof.Machine.execTxa s
  | .tya => Sys2Proof.Machine.execTya s
  | .tsx => Sys2Proof.Machine.execTsx s
  | .txs => Sys2Proof.Machine.execTxs s
  | .incZp nn => Sys2Proof.Machine.execIncZp nn s
  | .incZpX nn => Sys2Proof.Machine.execIncZpX nn s
  | .incAbs w => Sys2Proof.Machine.execIncAbs w s
  | .incAbsX w => Sys2Proof.Machine.execIncAbsX w s
  | .decZp nn => Sys2Proof.Machine.execDecZp nn s
  | .decZpX nn => Sys2Proof.Machine.execDecZpX nn s
  | .decAbs w => Sys2Proof.Machine.execDecAbs w s
  | .decAbsX w => Sys2Proof.Machine.execDecAbsX w s
  | .inx => Sys2Proof.Machine.execInx s
  | .iny => Sys2Proof.Machine.execIny s
  | .dex => Sys2Proof.Machine.execDex s
  | .dey => Sys2Proof.Machine.execDey s
  | .andImm v => Sys2Proof.Machine.execAndImm v s
  | .andZp nn => Sys2Proof.Machine.execAndZp nn s
  | .andZpX nn => Sys2Proof.Machine.execAndZpX nn s
  | .andAbs w => Sys2Proof.Machine.execAndAbs w s
  | .andAbsX w => Sys2Proof.Machine.execAndAbsX w s
  | .andAbsY w => Sys2Proof.Machine.execAndAbsY w s
  | .sec => Sys2Proof.Machine.execSec s
  | .sed => Sys2Proof.Machine.execSed s
  | .sei => Sys2Proof.Machine.execSei s
  | .clc => Sys2Proof.Machine.execClc s
  | .cld => Sys2Proof.Machine.execCld s
  | .cli => Sys2Proof.Machine.execCli s
  | .clv => Sys2Proof.Machine.execClv s
  | .jmpAbs w => Sys2Proof.Machine.execJmpAbs w s
  | .jmpInd w => Sys2Proof.Machine.execJmpInd w s
  | .nop => Sys2Proof.Machine.execNop s
  | .unsupported op => Sys2Proof.Machine.execUnsupported op s

end Sys2Proof.Machine
end

