-- ==== Sys2Proof/Machine/Step.lean ====
section
/-! DEFINITION. One step of the engine (40_engine_addressing.md R81). -/

namespace Sys2Proof.Machine

/-- `step()`: fetch one instruction at PC and run its handler (40_engine_addressing.md R81, R98). -/
def step (s : State) : Host.Outcome State Fault Refusal :=
  let (i, s1) := fetchInstr s
  exec i s1

/-- The state with an instruction word stored where `step` fetches next: at PC and the two addresses after it, modulo 65536. It stands for the host's load of a program (70_reset_and_hazards.md R225, log 2), and changes nothing but memory. -/
def State.withFetchWord (s : State) (nbits w : Nat) : State :=
  { s with mem := s.mem.writeBytes s.pc (tableBytes nbits w) }

end Sys2Proof.Machine
end

