-- ==== Sys2Proof/Machine/HostInterface.lean ====
section
/-! DEFINITION. The host interface (70_reset_and_hazards.md R226): reset, load-write, step with its report, run, and the three inspections. Each command is atomic and taken at an instruction boundary (R222, R226), which is the only state there is (40_engine_addressing.md R80). -/

namespace Sys2Proof.Machine

/-- Power-up: registers as after reset, memory `MEM0`, `last_read` and `last_write` none (10_state.md R39, 70_reset_and_hazards.md R223, log 10). -/
def State.powerUp (mem0 : Config.LaunchImage) : State :=
  { State.reset with mem := Memory.ofImage mem0 }

/-- `reset()`: the registers and P become 0, PC becomes 0x0000; memory, `last_read` and `last_write` stay (70_reset_and_hazards.md R220, log 10). -/
def hostReset (s : State) : State :=
  { s with pc := 0x0000, sp := 0x00, a := 0x00, x := 0x00, y := 0x00, p := 0x00 }

/-- The load interface `write(address, byte)`, which is `MemWrite` (20_memory.md R57, log 11). -/
def hostWrite (addr : Addr) (v : Byte) (s : State) : State := memWrite s addr v

/-- `peek(a)`: the byte at `a`; no state changes, so none is returned (20_memory.md R58, log 11). -/
def peek (addr : Addr) (s : State) : Byte := s.mem.read addr

/-- The step report's `ea`, on the state after the fetch: the effective address for the memory modes, the target for the jumps, none otherwise (40_engine_addressing.md R96). -/
def reportEa (i : Instr) (s : State) : Option Addr :=
  match i with
  | .ldaImm _ => none
  | .ldaZp nn => some (eaZp nn)
  | .ldaZpX nn => some (eaZpX nn s)
  | .ldaAbs w => some (eaAbs w)
  | .ldaAbsX w => some (eaAbsX w s)
  | .ldaAbsY w => some (eaAbsY w s)
  | .ldxImm _ => none
  | .ldxZp nn => some (eaZp nn)
  | .ldxZpY nn => some (eaZpY nn s)
  | .ldxAbs w => some (eaAbs w)
  | .ldxAbsY w => some (eaAbsY w s)
  | .ldyImm _ => none
  | .ldyZp nn => some (eaZp nn)
  | .ldyZpX nn => some (eaZpX nn s)
  | .ldyAbs w => some (eaAbs w)
  | .ldyAbsX w => some (eaAbsX w s)
  | .staZp nn => some (eaZp nn)
  | .staZpX nn => some (eaZpX nn s)
  | .staAbs w => some (eaAbs w)
  | .staAbsX w => some (eaAbsX w s)
  | .staAbsY w => some (eaAbsY w s)
  | .stxZp nn => some (eaZp nn)
  | .stxZpY nn => some (eaZpY nn s)
  | .stxAbs w => some (eaAbs w)
  | .styZp nn => some (eaZp nn)
  | .styZpX nn => some (eaZpX nn s)
  | .styAbs w => some (eaAbs w)
  | .tax => none
  | .tay => none
  | .txa => none
  | .tya => none
  | .tsx => none
  | .txs => none
  | .incZp nn => some (eaZp nn)
  | .incZpX nn => some (eaZpX nn s)
  | .incAbs w => some (eaAbs w)
  | .incAbsX w => some (eaAbsX w s)
  | .decZp nn => some (eaZp nn)
  | .decZpX nn => some (eaZpX nn s)
  | .decAbs w => some (eaAbs w)
  | .decAbsX w => some (eaAbsX w s)
  | .inx => none
  | .iny => none
  | .dex => none
  | .dey => none
  | .andImm _ => none
  | .andZp nn => some (eaZp nn)
  | .andZpX nn => some (eaZpX nn s)
  | .andAbs w => some (eaAbs w)
  | .andAbsX w => some (eaAbsX w s)
  | .andAbsY w => some (eaAbsY w s)
  | .sec => none
  | .sed => none
  | .sei => none
  | .clc => none
  | .cld => none
  | .cli => none
  | .clv => none
  | .jmpAbs w => some (eaAbs w)
  | .jmpInd w => some (eaInd w s).1
  | .nop => none
  | .unsupported _ => none

/-- The step report's `value`, on the state after the fetch: the byte loaded, stored, written by INC or DEC on memory, or ANDed; none otherwise (40_engine_addressing.md R96). For AND it is the operand byte, not the result (log 14). -/
def reportValue (i : Instr) (s : State) : Option Byte :=
  match i with
  | .ldaImm v => some v
  | .ldaZp nn => some (s.mem.read (eaZp nn))
  | .ldaZpX nn => some (s.mem.read (eaZpX nn s))
  | .ldaAbs w => some (s.mem.read (eaAbs w))
  | .ldaAbsX w => some (s.mem.read (eaAbsX w s))
  | .ldaAbsY w => some (s.mem.read (eaAbsY w s))
  | .ldxImm v => some v
  | .ldxZp nn => some (s.mem.read (eaZp nn))
  | .ldxZpY nn => some (s.mem.read (eaZpY nn s))
  | .ldxAbs w => some (s.mem.read (eaAbs w))
  | .ldxAbsY w => some (s.mem.read (eaAbsY w s))
  | .ldyImm v => some v
  | .ldyZp nn => some (s.mem.read (eaZp nn))
  | .ldyZpX nn => some (s.mem.read (eaZpX nn s))
  | .ldyAbs w => some (s.mem.read (eaAbs w))
  | .ldyAbsX w => some (s.mem.read (eaAbsX w s))
  | .staZp _ => some (s.reg .a)
  | .staZpX _ => some (s.reg .a)
  | .staAbs _ => some (s.reg .a)
  | .staAbsX _ => some (s.reg .a)
  | .staAbsY _ => some (s.reg .a)
  | .stxZp _ => some (s.reg .x)
  | .stxZpY _ => some (s.reg .x)
  | .stxAbs _ => some (s.reg .x)
  | .styZp _ => some (s.reg .y)
  | .styZpX _ => some (s.reg .y)
  | .styAbs _ => some (s.reg .y)
  | .tax => none
  | .tay => none
  | .txa => none
  | .tya => none
  | .tsx => none
  | .txs => none
  | .incZp nn => some (inc (s.mem.read (eaZp nn)))
  | .incZpX nn => some (inc (s.mem.read (eaZpX nn s)))
  | .incAbs w => some (inc (s.mem.read (eaAbs w)))
  | .incAbsX w => some (inc (s.mem.read (eaAbsX w s)))
  | .decZp nn => some (dec (s.mem.read (eaZp nn)))
  | .decZpX nn => some (dec (s.mem.read (eaZpX nn s)))
  | .decAbs w => some (dec (s.mem.read (eaAbs w)))
  | .decAbsX w => some (dec (s.mem.read (eaAbsX w s)))
  | .inx => none
  | .iny => none
  | .dex => none
  | .dey => none
  | .andImm v => some v
  | .andZp nn => some (s.mem.read (eaZp nn))
  | .andZpX nn => some (s.mem.read (eaZpX nn s))
  | .andAbs w => some (s.mem.read (eaAbs w))
  | .andAbsX w => some (s.mem.read (eaAbsX w s))
  | .andAbsY w => some (s.mem.read (eaAbsY w s))
  | .sec => none
  | .sed => none
  | .sei => none
  | .clc => none
  | .cld => none
  | .cli => none
  | .clv => none
  | .jmpAbs _ => none
  | .jmpInd _ => none
  | .nop => none
  | .unsupported _ => none

/-- Whether an instruction has a handler other than the unsupported one (40_engine_addressing.md R96, R97). -/
def reportSupported : Instr → Bool
  | .unsupported _ => false
  | .ldaImm _ => true
  | .ldaZp _ => true
  | .ldaZpX _ => true
  | .ldaAbs _ => true
  | .ldaAbsX _ => true
  | .ldaAbsY _ => true
  | .ldxImm _ => true
  | .ldxZp _ => true
  | .ldxZpY _ => true
  | .ldxAbs _ => true
  | .ldxAbsY _ => true
  | .ldyImm _ => true
  | .ldyZp _ => true
  | .ldyZpX _ => true
  | .ldyAbs _ => true
  | .ldyAbsX _ => true
  | .staZp _ => true
  | .staZpX _ => true
  | .staAbs _ => true
  | .staAbsX _ => true
  | .staAbsY _ => true
  | .stxZp _ => true
  | .stxZpY _ => true
  | .stxAbs _ => true
  | .styZp _ => true
  | .styZpX _ => true
  | .styAbs _ => true
  | .tax => true
  | .tay => true
  | .txa => true
  | .tya => true
  | .tsx => true
  | .txs => true
  | .incZp _ => true
  | .incZpX _ => true
  | .incAbs _ => true
  | .incAbsX _ => true
  | .decZp _ => true
  | .decZpX _ => true
  | .decAbs _ => true
  | .decAbsX _ => true
  | .inx => true
  | .iny => true
  | .dex => true
  | .dey => true
  | .andImm _ => true
  | .andZp _ => true
  | .andZpX _ => true
  | .andAbs _ => true
  | .andAbsX _ => true
  | .andAbsY _ => true
  | .sec => true
  | .sed => true
  | .sei => true
  | .clc => true
  | .cld => true
  | .cli => true
  | .clv => true
  | .jmpAbs _ => true
  | .jmpInd _ => true
  | .nop => true

/-- The step report: diagnostic data for the host's trace hook, no part of the state (40_engine_addressing.md R96). -/
structure StepReport where
  /-- PC before the opcode fetch. -/
  opaddr : Addr
  /-- The opcode byte. -/
  opcode : Byte
  /-- The handler's name, or `UNSUPPORTED`. -/
  handler : String
  /-- False exactly for the unsupported handler (R97). -/
  supported : Bool
  /-- The effective address or jump target. -/
  ea : Option Addr
  /-- The byte loaded, stored, written or ANDed. -/
  value : Option Byte
deriving DecidableEq, Repr

/-- The report of the step that the machine takes from `s` (40_engine_addressing.md R81, R96). -/
def stepReport (s : State) : StepReport :=
  let (i, s1) := fetchInstr s
  { opaddr := s.pc, opcode := s.mem.read s.pc, handler := i.handlerName,
    supported := reportSupported i, ea := reportEa i s1, value := reportValue i s1 }

/-- `run(n)`: exactly `n` steps in sequence, with their reports in order; `run(0)` changes nothing (40_engine_addressing.md R82, 70_reset_and_hazards.md R226). -/
def run (n : Nat) (s : State) : Host.Outcome (State × List StepReport) Fault Refusal :=
  match n with
  | 0 => .next (s, [])
  | k + 1 =>
    match step s with
    | .next t =>
      match run k t with
      | .next (u, reports) => .next (u, stepReport s :: reports)
      | .fault f => .fault f
      | .refused f => .refused f
    | .fault f => .fault f
    | .refused f => .refused f

/-- What inspecting the registers shows: each register, the byte P and each flag by name (10_state.md R37, 70_reset_and_hazards.md R226). -/
structure RegisterView where
  pc : Addr
  sp : Byte
  a : Byte
  x : Byte
  y : Byte
  p : Byte
  carry : Bool
  zero : Bool
  interruptDisable : Bool
  decimal : Bool
  brk : Bool
  overflow : Bool
  negative : Bool
deriving DecidableEq, Repr

/-- Inspect the registers; a flag is `HasFlag` of its mask (10_state.md R37). -/
def inspectRegisters (s : State) : RegisterView :=
  { pc := s.pc, sp := s.sp, a := s.a, x := s.x, y := s.y, p := s.p,
    carry := s.hasFlag maskC, zero := s.hasFlag maskZ, interruptDisable := s.hasFlag maskI,
    decimal := s.hasFlag maskD, brk := s.hasFlag maskB, overflow := s.hasFlag maskV,
    negative := s.hasFlag maskN }

/-- The host's commands (70_reset_and_hazards.md R226). Arguments are typed 16 and 8 bits, so none is out of range (20_memory.md R57, log 11). -/
inductive HostCommand where
  | reset
  | write (addr : Addr) (v : Byte)
  | step
  | run (n : Nat)
  | inspectRegisters
  | peek (addr : Addr)
  | inspectDiagnostics
deriving DecidableEq, Repr

/-- What the host gets back from a command (70_reset_and_hazards.md R226). -/
inductive HostReply where
  | nothing
  | report (r : StepReport)
  | reports (rs : List StepReport)
  | registers (v : RegisterView)
  | byte (v : Byte)
  | diagnostics (lastRead lastWrite : Option Addr)
deriving DecidableEq, Repr

/-- Run one host command: the state after it and the reply (70_reset_and_hazards.md R226). -/
def hostCommand (c : HostCommand) (s : State) : Host.Outcome (State × HostReply) Fault Refusal :=
  match c with
  | .reset => .next (hostReset s, .nothing)
  | .write addr v => .next (hostWrite addr v s, .nothing)
  | .step =>
    match Machine.step s with
    | .next t => .next (t, .report (stepReport s))
    | .fault f => .fault f
    | .refused f => .refused f
  | .run n =>
    match Machine.run n s with
    | .next (t, reports) => .next (t, .reports reports)
    | .fault f => .fault f
    | .refused f => .refused f
  | .inspectRegisters => .next (s, .registers (Machine.inspectRegisters s))
  | .peek addr => .next (s, .byte (Machine.peek addr s))
  | .inspectDiagnostics => .next (s, .diagnostics s.lastRead s.lastWrite)

end Sys2Proof.Machine
end

