-- ==== Sys2Proof/Machine/Protocol.lean ====
section
/-! DEFINITION. The step in the spec's own words: read the opcode, select its handler in the dispatch table by the byte alone, and let the HANDLER consume its operand bytes at the current PC and do its work (40_engine_addressing.md R81, R85, R86 to R94). `step` fetches the whole instruction first and decodes it to a term of `Instr`; this file is what it is claimed equal to. The pseudocode of each handler is copied from its rule. -/

namespace Sys2Proof.Machine

/-- A handler: a function of registers and memory that mutates them and returns nothing (40_engine_addressing.md R85). -/
abbrev Handler := State → State

/-- An effective-address function that consumes its own operand bytes (40_engine_addressing.md R87 to R93). -/
abbrev EaFn := State → Addr × State

/-- `EA_ZP()` (R87). -/
def protoEaZp : EaFn := fun s =>
  let (b, s) := fetchByte s
  (b.setWidth 16, s)

/-- `EA_ZPX()` (R88). -/
def protoEaZpX : EaFn := fun s =>
  let (b, s) := fetchByte s
  ((b + s.x).setWidth 16, s)

/-- `EA_ZPY()` (R89). -/
def protoEaZpY : EaFn := fun s =>
  let (b, s) := fetchByte s
  ((b + s.y).setWidth 16, s)

/-- `EA_ABS()` (R90). -/
def protoEaAbs : EaFn := fetchWord

/-- `EA_ABSX()` (R91). -/
def protoEaAbsX : EaFn := fun s =>
  let (w, s) := fetchWord s
  (w + s.x.setWidth 16, s)

/-- `EA_ABSY()` (R92). -/
def protoEaAbsY : EaFn := fun s =>
  let (w, s) := fetchWord s
  (w + s.y.setWidth 16, s)

/-- `EA_IND()` (R93). -/
def protoEaInd : EaFn := fun s =>
  let (ptr, s) := fetchWord s
  let (lo, s) := memRead s ptr
  let (hi, s) := memRead s (ptr + 1)
  ((hi.setWidth 16 <<< 8) ||| lo.setWidth 16, s)

/-- `ea <- EA(); v <- MemRead(ea, 1)`: the operand value of a memory mode. -/
def protoValue (ea : EaFn) : State → Byte × State := fun s =>
  let (a, s) := ea s
  memRead s a

/-- `v <- (value); R <- v; SetZN(v)` (41_load.md). -/
def protoLoad (r : Reg) (value : State → Byte × State) : Handler := fun s =>
  let (v, s) := value s
  (s.setReg r v).setZN v

/-- `ea <- EA(); MemWrite(ea, 1, R)` (42_store.md). -/
def protoStore (r : Reg) (ea : EaFn) : Handler := fun s =>
  let (a, s) := ea s
  memWrite s a (s.reg r)

/-- `v <- src; dst <- v; SetZN(v)` (43_transfer.md). -/
def protoTransfer (src dst : Reg) : Handler := fun s =>
  let v := s.reg src
  (s.setReg dst v).setZN v

/-- `ea <- EA(); v <- MemRead(ea, 1); r <- (v + d) mod 256; MemWrite(ea, 1, r); SetZN(r)`, with `d` 1 or 255 (44_incdec.md). -/
def protoModify (d : Byte) (ea : EaFn) : Handler := fun s =>
  let (a, s) := ea s
  let (v, s) := memRead s a
  let r := v + d
  (memWrite s a r).setZN r

/-- `v <- R; r <- (v + d) mod 256; R <- r; SetZN(r)` (44_incdec.md). -/
def protoModifyReg (d : Byte) (r : Reg) : Handler := fun s =>
  let v := s.reg r + d
  (s.setReg r v).setZN v

/-- `v <- (value); r <- A & v; A <- r; SetZN(r)` (45_logical.md). -/
def protoAnd (value : State → Byte × State) : Handler := fun s =>
  let (v, s) := value s
  let r := s.a &&& v
  (s.setReg .a r).setZN r

/-- `target <- EA(); PC <- target` (47_jump.md). -/
def protoJump (ea : EaFn) : Handler := fun s =>
  let (target, s) := ea s
  s.setPc target

/-- The dispatch table, from the opcode byte to its handler (30_encoding.md R65, R66, R67). -/
def protoTable (opcode : Byte) : Handler :=
  match opcode with
  | 0xA9#8 => protoLoad .a fetchByte
  | 0xA5#8 => protoLoad .a (protoValue protoEaZp)
  | 0xB5#8 => protoLoad .a (protoValue protoEaZpX)
  | 0xAD#8 => protoLoad .a (protoValue protoEaAbs)
  | 0xBD#8 => protoLoad .a (protoValue protoEaAbsX)
  | 0xB9#8 => protoLoad .a (protoValue protoEaAbsY)
  | 0xA2#8 => protoLoad .x fetchByte
  | 0xA6#8 => protoLoad .x (protoValue protoEaZp)
  | 0xB6#8 => protoLoad .x (protoValue protoEaZpY)
  | 0xAE#8 => protoLoad .x (protoValue protoEaAbs)
  | 0xBE#8 => protoLoad .x (protoValue protoEaAbsY)
  | 0xA0#8 => protoLoad .y fetchByte
  | 0xA4#8 => protoLoad .y (protoValue protoEaZp)
  | 0xB4#8 => protoLoad .y (protoValue protoEaZpX)
  | 0xAC#8 => protoLoad .y (protoValue protoEaAbs)
  | 0xBC#8 => protoLoad .y (protoValue protoEaAbsX)
  | 0x85#8 => protoStore .a protoEaZp
  | 0x95#8 => protoStore .a protoEaZpX
  | 0x8D#8 => protoStore .a protoEaAbs
  | 0x9D#8 => protoStore .a protoEaAbsX
  | 0x99#8 => protoStore .a protoEaAbsY
  | 0x86#8 => protoStore .x protoEaZp
  | 0x96#8 => protoStore .x protoEaZpY
  | 0x8E#8 => protoStore .x protoEaAbs
  | 0x84#8 => protoStore .y protoEaZp
  | 0x94#8 => protoStore .y protoEaZpX
  | 0x8C#8 => protoStore .y protoEaAbs
  | 0xAA#8 => protoTransfer .a .x
  | 0xA8#8 => protoTransfer .a .y
  | 0x8A#8 => protoTransfer .x .a
  | 0x98#8 => protoTransfer .y .a
  | 0xBA#8 => protoTransfer .sp .x
  | 0x9A#8 => fun s => s.setReg .sp s.x
  | 0xE6#8 => protoModify 1 protoEaZp
  | 0xF6#8 => protoModify 1 protoEaZpX
  | 0xEE#8 => protoModify 1 protoEaAbs
  | 0xFE#8 => protoModify 1 protoEaAbsX
  | 0xC6#8 => protoModify 255 protoEaZp
  | 0xD6#8 => protoModify 255 protoEaZpX
  | 0xCE#8 => protoModify 255 protoEaAbs
  | 0xDE#8 => protoModify 255 protoEaAbsX
  | 0xE8#8 => protoModifyReg 1 .x
  | 0xC8#8 => protoModifyReg 1 .y
  | 0xCA#8 => protoModifyReg 255 .x
  | 0x88#8 => protoModifyReg 255 .y
  | 0x29#8 => protoAnd fetchByte
  | 0x25#8 => protoAnd (protoValue protoEaZp)
  | 0x35#8 => protoAnd (protoValue protoEaZpX)
  | 0x2D#8 => protoAnd (protoValue protoEaAbs)
  | 0x3D#8 => protoAnd (protoValue protoEaAbsX)
  | 0x39#8 => protoAnd (protoValue protoEaAbsY)
  | 0x38#8 => fun s => s.setFlags 0x01
  | 0xF8#8 => fun s => s.setFlags 0x08
  | 0x78#8 => fun s => s.setFlags 0x04
  | 0x18#8 => fun s => s.clearFlags 0x01
  | 0xD8#8 => fun s => s.clearFlags 0x08
  | 0x58#8 => fun s => s.clearFlags 0x04
  | 0xB8#8 => fun s => s.clearFlags 0x40
  | 0x4C#8 => protoJump protoEaAbs
  | 0x6C#8 => protoJump protoEaInd
  | 0xEA#8 => fun s => s
  | _ => fun s => s

/-- `step()` as the spec writes it: read the byte at PC, advance PC by 1, and run `table[opcode]` (40_engine_addressing.md R81). -/
def protoStep (s : State) : State :=
  let (opcode, s) := fetchByte s
  protoTable opcode s

end Sys2Proof.Machine
end

