-- ==== Sys2Proof/Safety.lean ====
section
/-! DEFINITION. The terms claims use: what an instruction may write, the invariant of a safe state, and agreement of two states. The core has no error state to stay out of (60_exceptions.md R200); a safe state is one whose data keep their form. -/

namespace Sys2Proof

open Machine

/-- The register an instruction writes, if any (10_state.md R22, R23, R24 and the access summary after R25). -/
def Instr.destReg : Instr → Option Reg
  | .ldaImm _ => some .a
  | .ldaZp _ => some .a
  | .ldaZpX _ => some .a
  | .ldaAbs _ => some .a
  | .ldaAbsX _ => some .a
  | .ldaAbsY _ => some .a
  | .ldxImm _ => some .x
  | .ldxZp _ => some .x
  | .ldxZpY _ => some .x
  | .ldxAbs _ => some .x
  | .ldxAbsY _ => some .x
  | .ldyImm _ => some .y
  | .ldyZp _ => some .y
  | .ldyZpX _ => some .y
  | .ldyAbs _ => some .y
  | .ldyAbsX _ => some .y
  | .staZp _ => none
  | .staZpX _ => none
  | .staAbs _ => none
  | .staAbsX _ => none
  | .staAbsY _ => none
  | .stxZp _ => none
  | .stxZpY _ => none
  | .stxAbs _ => none
  | .styZp _ => none
  | .styZpX _ => none
  | .styAbs _ => none
  | .tax => some .x
  | .tay => some .y
  | .txa => some .a
  | .tya => some .a
  | .tsx => some .x
  | .txs => some .sp
  | .incZp _ => none
  | .incZpX _ => none
  | .incAbs _ => none
  | .incAbsX _ => none
  | .decZp _ => none
  | .decZpX _ => none
  | .decAbs _ => none
  | .decAbsX _ => none
  | .inx => some .x
  | .iny => some .y
  | .dex => some .x
  | .dey => some .y
  | .andImm _ => some .a
  | .andZp _ => some .a
  | .andZpX _ => some .a
  | .andAbs _ => some .a
  | .andAbsX _ => some .a
  | .andAbsY _ => some .a
  | .sec => none
  | .sed => none
  | .sei => none
  | .clc => none
  | .cld => none
  | .cli => none
  | .clv => none
  | .jmpAbs _ => none
  | .jmpInd _ => none
  | .nop => none
  | .unsupported _ => none

/-- The bits of P an instruction may write: Zero and Negative for every `SetZN` user, the one named flag for the flag instructions, none otherwise (10_state.md R26). -/
def Instr.statusMask : Instr → Byte
  | .ldaImm _ => 0x82
  | .ldaZp _ => 0x82
  | .ldaZpX _ => 0x82
  | .ldaAbs _ => 0x82
  | .ldaAbsX _ => 0x82
  | .ldaAbsY _ => 0x82
  | .ldxImm _ => 0x82
  | .ldxZp _ => 0x82
  | .ldxZpY _ => 0x82
  | .ldxAbs _ => 0x82
  | .ldxAbsY _ => 0x82
  | .ldyImm _ => 0x82
  | .ldyZp _ => 0x82
  | .ldyZpX _ => 0x82
  | .ldyAbs _ => 0x82
  | .ldyAbsX _ => 0x82
  | .staZp _ => 0x00
  | .staZpX _ => 0x00
  | .staAbs _ => 0x00
  | .staAbsX _ => 0x00
  | .staAbsY _ => 0x00
  | .stxZp _ => 0x00
  | .stxZpY _ => 0x00
  | .stxAbs _ => 0x00
  | .styZp _ => 0x00
  | .styZpX _ => 0x00
  | .styAbs _ => 0x00
  | .tax => 0x82
  | .tay => 0x82
  | .txa => 0x82
  | .tya => 0x82
  | .tsx => 0x82
  | .txs => 0x00
  | .incZp _ => 0x82
  | .incZpX _ => 0x82
  | .incAbs _ => 0x82
  | .incAbsX _ => 0x82
  | .decZp _ => 0x82
  | .decZpX _ => 0x82
  | .decAbs _ => 0x82
  | .decAbsX _ => 0x82
  | .inx => 0x82
  | .iny => 0x82
  | .dex => 0x82
  | .dey => 0x82
  | .andImm _ => 0x82
  | .andZp _ => 0x82
  | .andZpX _ => 0x82
  | .andAbs _ => 0x82
  | .andAbsX _ => 0x82
  | .andAbsY _ => 0x82
  | .sec => 0x01
  | .sed => 0x08
  | .sei => 0x04
  | .clc => 0x01
  | .cld => 0x08
  | .cli => 0x04
  | .clv => 0x40
  | .jmpAbs _ => 0x00
  | .jmpInd _ => 0x00
  | .nop => 0x00
  | .unsupported _ => 0x00

/-- The address an instruction reads data from after its own bytes, with the function its meaning uses: the effective address of loads, AND, INC and DEC (20_memory.md R51, step 4). JMP indirect reads its pointer instead, and is treated apart. -/
def Instr.dataReadAddr (i : Instr) (s : State) : Option Addr :=
  match i with
  | .ldaImm _ => none
  | .ldaZp nn => some (eaZp nn)
  | .ldaZpX nn => some (eaZpX nn s)
  | .ldaAbs w => some (eaAbs w)
  | .ldaAbsX w => some (eaAbsX w s)
  | .ldaAbsY w => some (eaAbsY w s)
  | .ldxImm _ => none
  | .ldxZp nn => some (eaZp nn)
  | .ldxZpY nn => some (eaZpY nn s)
  | .ldxAbs w => some (eaAbs w)
  | .ldxAbsY w => some (eaAbsY w s)
  | .ldyImm _ => none
  | .ldyZp nn => some (eaZp nn)
  | .ldyZpX nn => some (eaZpX nn s)
  | .ldyAbs w => some (eaAbs w)
  | .ldyAbsX w => some (eaAbsX w s)
  | .staZp _ => none
  | .staZpX _ => none
  | .staAbs _ => none
  | .staAbsX _ => none
  | .staAbsY _ => none
  | .stxZp _ => none
  | .stxZpY _ => none
  | .stxAbs _ => none
  | .styZp _ => none
  | .styZpX _ => none
  | .styAbs _ => none
  | .tax => none
  | .tay => none
  | .txa => none
  | .tya => none
  | .tsx => none
  | .txs => none
  | .incZp nn => some (eaZp nn)
  | .incZpX nn => some (eaZpX nn s)
  | .incAbs w => some (eaAbs w)
  | .incAbsX w => some (eaAbsX w s)
  | .decZp nn => some (eaZp nn)
  | .decZpX nn => some (eaZpX nn s)
  | .decAbs w => some (eaAbs w)
  | .decAbsX w => some (eaAbsX w s)
  | .inx => none
  | .iny => none
  | .dex => none
  | .dey => none
  | .andImm _ => none
  | .andZp nn => some (eaZp nn)
  | .andZpX nn => some (eaZpX nn s)
  | .andAbs w => some (eaAbs w)
  | .andAbsX w => some (eaAbsX w s)
  | .andAbsY w => some (eaAbsY w s)
  | .sec => none
  | .sed => none
  | .sei => none
  | .clc => none
  | .cld => none
  | .cli => none
  | .clv => none
  | .jmpAbs _ => none
  | .jmpInd _ => none
  | .nop => none
  | .unsupported _ => none

/-- The address an instruction stores to, with the function its meaning uses: the effective address of STA, STX, STY, INC and DEC; none for a form that stores nothing (20_memory.md R51, step 5). -/
def Instr.storeAddr (i : Instr) (s : State) : Option Addr :=
  match i with
  | .ldaImm _ => none
  | .ldaZp _ => none
  | .ldaZpX _ => none
  | .ldaAbs _ => none
  | .ldaAbsX _ => none
  | .ldaAbsY _ => none
  | .ldxImm _ => none
  | .ldxZp _ => none
  | .ldxZpY _ => none
  | .ldxAbs _ => none
  | .ldxAbsY _ => none
  | .ldyImm _ => none
  | .ldyZp _ => none
  | .ldyZpX _ => none
  | .ldyAbs _ => none
  | .ldyAbsX _ => none
  | .staZp nn => some (eaZp nn)
  | .staZpX nn => some (eaZpX nn s)
  | .staAbs w => some (eaAbs w)
  | .staAbsX w => some (eaAbsX w s)
  | .staAbsY w => some (eaAbsY w s)
  | .stxZp nn => some (eaZp nn)
  | .stxZpY nn => some (eaZpY nn s)
  | .stxAbs w => some (eaAbs w)
  | .styZp nn => some (eaZp nn)
  | .styZpX nn => some (eaZpX nn s)
  | .styAbs w => some (eaAbs w)
  | .tax => none
  | .tay => none
  | .txa => none
  | .tya => none
  | .tsx => none
  | .txs => none
  | .incZp nn => some (eaZp nn)
  | .incZpX nn => some (eaZpX nn s)
  | .incAbs w => some (eaAbs w)
  | .incAbsX w => some (eaAbsX w s)
  | .decZp nn => some (eaZp nn)
  | .decZpX nn => some (eaZpX nn s)
  | .decAbs w => some (eaAbs w)
  | .decAbsX w => some (eaAbsX w s)
  | .inx => none
  | .iny => none
  | .dex => none
  | .dey => none
  | .andImm _ => none
  | .andZp _ => none
  | .andZpX _ => none
  | .andAbs _ => none
  | .andAbsX _ => none
  | .andAbsY _ => none
  | .sec => none
  | .sed => none
  | .sei => none
  | .clc => none
  | .cld => none
  | .cli => none
  | .clv => none
  | .jmpAbs _ => none
  | .jmpInd _ => none
  | .nop => none
  | .unsupported _ => none

/-- The result byte that an instruction hands to `SetZN`, from the state it runs on: the byte loaded or transferred, the incremented or decremented byte, the AND; none for an instruction that does not call `SetZN` (10_state.md R26, R28, R34). -/
def Instr.resultByte (i : Instr) (s : State) : Option Byte :=
  match i with
  | .ldaImm v => some v
  | .ldaZp nn => some (s.mem.read (eaZp nn))
  | .ldaZpX nn => some (s.mem.read (eaZpX nn s))
  | .ldaAbs w => some (s.mem.read (eaAbs w))
  | .ldaAbsX w => some (s.mem.read (eaAbsX w s))
  | .ldaAbsY w => some (s.mem.read (eaAbsY w s))
  | .ldxImm v => some v
  | .ldxZp nn => some (s.mem.read (eaZp nn))
  | .ldxZpY nn => some (s.mem.read (eaZpY nn s))
  | .ldxAbs w => some (s.mem.read (eaAbs w))
  | .ldxAbsY w => some (s.mem.read (eaAbsY w s))
  | .ldyImm v => some v
  | .ldyZp nn => some (s.mem.read (eaZp nn))
  | .ldyZpX nn => some (s.mem.read (eaZpX nn s))
  | .ldyAbs w => some (s.mem.read (eaAbs w))
  | .ldyAbsX w => some (s.mem.read (eaAbsX w s))
  | .staZp _ => none
  | .staZpX _ => none
  | .staAbs _ => none
  | .staAbsX _ => none
  | .staAbsY _ => none
  | .stxZp _ => none
  | .stxZpY _ => none
  | .stxAbs _ => none
  | .styZp _ => none
  | .styZpX _ => none
  | .styAbs _ => none
  | .tax => some s.a
  | .tay => some s.a
  | .txa => some s.x
  | .tya => some s.y
  | .tsx => some s.sp
  | .txs => none
  | .incZp nn => some (s.mem.read (eaZp nn) + 1)
  | .incZpX nn => some (s.mem.read (eaZpX nn s) + 1)
  | .incAbs w => some (s.mem.read (eaAbs w) + 1)
  | .incAbsX w => some (s.mem.read (eaAbsX w s) + 1)
  | .decZp nn => some (s.mem.read (eaZp nn) - 1)
  | .decZpX nn => some (s.mem.read (eaZpX nn s) - 1)
  | .decAbs w => some (s.mem.read (eaAbs w) - 1)
  | .decAbsX w => some (s.mem.read (eaAbsX w s) - 1)
  | .inx => some (s.x + 1)
  | .iny => some (s.y + 1)
  | .dex => some (s.x - 1)
  | .dey => some (s.y - 1)
  | .andImm v => some (s.a &&& v)
  | .andZp nn => some (s.a &&& s.mem.read (eaZp nn))
  | .andZpX nn => some (s.a &&& s.mem.read (eaZpX nn s))
  | .andAbs w => some (s.a &&& s.mem.read (eaAbs w))
  | .andAbsX w => some (s.a &&& s.mem.read (eaAbsX w s))
  | .andAbsY w => some (s.a &&& s.mem.read (eaAbsY w s))
  | .sec => none
  | .sed => none
  | .sei => none
  | .clc => none
  | .cld => none
  | .cli => none
  | .clv => none
  | .jmpAbs _ => none
  | .jmpInd _ => none
  | .nop => none
  | .unsupported _ => none

/-- P after `SetZN(v)` from `p`: bits 1 and 7 replaced, the six others kept (10_state.md R36). -/
def statusZN (v p : Byte) : Byte :=
  (p &&& 0x7D) ||| (if v = 0 then 0x02 else 0x00) ||| (v &&& 0x80)

/-- Whether an instruction replaces PC: the jumps alone (10_state.md R21). -/
def Instr.isJump : Instr → Bool
  | .ldaImm _ => false
  | .ldaZp _ => false
  | .ldaZpX _ => false
  | .ldaAbs _ => false
  | .ldaAbsX _ => false
  | .ldaAbsY _ => false
  | .ldxImm _ => false
  | .ldxZp _ => false
  | .ldxZpY _ => false
  | .ldxAbs _ => false
  | .ldxAbsY _ => false
  | .ldyImm _ => false
  | .ldyZp _ => false
  | .ldyZpX _ => false
  | .ldyAbs _ => false
  | .ldyAbsX _ => false
  | .staZp _ => false
  | .staZpX _ => false
  | .staAbs _ => false
  | .staAbsX _ => false
  | .staAbsY _ => false
  | .stxZp _ => false
  | .stxZpY _ => false
  | .stxAbs _ => false
  | .styZp _ => false
  | .styZpX _ => false
  | .styAbs _ => false
  | .tax => false
  | .tay => false
  | .txa => false
  | .tya => false
  | .tsx => false
  | .txs => false
  | .incZp _ => false
  | .incZpX _ => false
  | .incAbs _ => false
  | .incAbsX _ => false
  | .decZp _ => false
  | .decZpX _ => false
  | .decAbs _ => false
  | .decAbsX _ => false
  | .inx => false
  | .iny => false
  | .dex => false
  | .dey => false
  | .andImm _ => false
  | .andZp _ => false
  | .andZpX _ => false
  | .andAbs _ => false
  | .andAbsX _ => false
  | .andAbsY _ => false
  | .sec => false
  | .sed => false
  | .sei => false
  | .clc => false
  | .cld => false
  | .cli => false
  | .clv => false
  | .jmpAbs _ => true
  | .jmpInd _ => true
  | .nop => false
  | .unsupported _ => false

/-- The bytes at `addr` and after it, modulo 65536, are `bs` (30_encoding.md R60). -/
def codeAt (s : State) (addr : Addr) : List Byte → Bool
  | [] => true
  | b :: bs => s.mem.read addr == b && codeAt s (addr + 1) bs

/-- The state after the fetch of an instruction of `n` bytes: PC past it and `last_read` at its last byte (40_engine_addressing.md R81, R83; 20_memory.md R51). -/
def afterFetch (n : Nat) (s : State) : State :=
  { s with pc := s.pc + BitVec.ofNat 16 n, lastRead := some (s.pc + BitVec.ofNat 16 (n - 1)) }

/-- The invariant of a safe state: memory is in canonical form, so that each byte of 20_memory.md R40 is listed at most once and equal memories are equal data. -/
abbrev SafeState (s : State) : Prop := s.mem.wf

/-- Two states that agree on everything but the diagnostic records (20_memory.md R56). -/
def sameButDiagnostics (s t : State) : Prop :=
  { s with lastRead := none, lastWrite := none } = { t with lastRead := none, lastWrite := none }

/-- Two states that agree on everything but P. -/
def sameButStatus (s t : State) : Prop := { s with p := 0 } = { t with p := 0 }

/-- Two states that agree on everything but SP. -/
def sameButSp (s t : State) : Prop := { s with sp := 0 } = { t with sp := 0 }

end Sys2Proof
end

