-- ==== Sys2Proof/Certificates/Slice0/Obligations.lean ====
section
/-! DEFINITION. The statements for the provers. "Log n" is notes/assumptions/n.md; "D n" is a decision of spec/92_eei_decisions.md. "After the fetch" names the state on which exec runs an instruction: PC past its bytes and last_read at its last byte. -/

open Sys2Proof Sys2Proof.Machine

/-- Decoding the encoding of any well-formed instruction gives it back. For every well-formed instruction, with every operand value, and any bytes after it, decode of encode gives the instruction and the bytes after it. The opcode bytes are those of log 3. Cites: 30_encoding.md section 1 (instruction formats), 30_encoding.md section 2 (operand assembly), 30_encoding.md section 3 (the dispatch table). -/
def Obligations.DecodeOfEncode : Prop :=
  ∀ (i : Instr) (rest : List Byte), i.wf = true → decode (encode i ++ rest) = .ok (i, rest)

/-- What the decoder reads is well formed and encodes to the bytes read. Whenever decode answers an instruction, encoding it gives back exactly the bytes consumed, and the instruction is well formed: each word has one meaning. The opcode bytes are those of log 3. Cites: 30_encoding.md section 1 (instruction formats), 30_encoding.md section 3 (the dispatch table). -/
def Obligations.EncodeOfDecode : Prop :=
  ∀ (bs : List Byte) (i : Instr) (rest : List Byte), decode bs = .ok (i, rest) →
    encode i ++ rest = bs ∧ i.wf = true

/-- A decoder reading bytes never fails, and byte 0 alone fixes the length. On any three bytes and whatever follows, the decoder answers an instruction whose length depends on the first byte alone and consumes exactly that many bytes; and the instruction fetched is the same in any two states with the same PC and memory, so neither the Decimal flag nor any other state affects decoding. Cites: R69. -/
def Obligations.DecodingNeverFailsAndLengthIsByByteZero : Prop :=
  (∀ (op b1 b2 : Byte) (rest : List Byte), ∃ (i : Instr) (after : List Byte),
    decode (op :: b1 :: b2 :: rest) = .ok (i, after) ∧ i.length = lengthOf op ∧
      after.length + i.length = rest.length + 3) ∧
  (∀ s t : State, s.pc = t.pc → s.mem = t.mem → (fetchInstr s).1 = (fetchInstr t).1)

/-- Words written out from the encoding table decode to their instructions. One word of each family, written from the table of 30_encoding.md R66, decodes to its instruction with its operand. The opcode bytes are those of log 3. That 0x20 leaves the two bytes after it unread is D2 of the spec (log 5). Cites: 30_encoding.md section 3 (the dispatch table), 92_eei_decisions.md D1, D2. -/
def Obligations.DecodeWrittenOutWords : Prop :=
  decode [0xBD, 0xF0, 0x12] = .ok (.ldaAbsX 0x12F0, []) ∧
  decode [0x96, 0x80] = .ok (.stxZpY 0x80, []) ∧
  decode [0xBA] = .ok (.tsx, []) ∧
  decode [0xDE, 0xFF, 0xFF] = .ok (.decAbsX 0xFFFF, []) ∧
  decode [0x29, 0x0F] = .ok (.andImm 0x0F, []) ∧
  decode [0xB8] = .ok (.clv, []) ∧
  decode [0x6C, 0xFF, 0x02] = .ok (.jmpInd 0x02FF, []) ∧
  decode [0xEA] = .ok (.nop, []) ∧
  decode [0x20, 0xBB, 0xAA] = .ok (.unsupported 0x20, [0xBB, 0xAA])

/-- Exactly the 195 listed bytes select the unsupported handler, each with its own byte. The opcode byte selects the unsupported handler if and only if it is one of the 195 bytes listed in 30_encoding.md R67, whatever bytes follow it. Which bytes are listed is the decision D1, D2 of the spec: logs 3 and 5. Cites: 30_encoding.md section 3 (the dispatch table, the list of unsupported bytes), 92_eei_decisions.md D1, D2. -/
def Obligations.UnsupportedBytesAreTheListedOnes : Prop :=
  ∀ op b1 b2 : Byte,
    (dispatch op b1 b2 = .unsupported op ↔ op ∈ ([0x00, 0x01, 0x02, 0x03, 0x04, 0x05, 0x06, 0x07, 0x08, 0x09, 0x0A, 0x0B, 0x0C, 0x0D, 0x0E] ++
     [0x0F, 0x10, 0x11, 0x12, 0x13, 0x14, 0x15, 0x16, 0x17, 0x19, 0x1A, 0x1B, 0x1C, 0x1D, 0x1E] ++
     [0x1F, 0x20, 0x21, 0x22, 0x23, 0x24, 0x26, 0x27, 0x28, 0x2A, 0x2B, 0x2C, 0x2E, 0x2F, 0x30] ++
     [0x31, 0x32, 0x33, 0x34, 0x36, 0x37, 0x3A, 0x3B, 0x3C, 0x3E, 0x3F, 0x40, 0x41, 0x42, 0x43] ++
     [0x44, 0x45, 0x46, 0x47, 0x48, 0x49, 0x4A, 0x4B, 0x4D, 0x4E, 0x4F, 0x50, 0x51, 0x52, 0x53] ++
     [0x54, 0x55, 0x56, 0x57, 0x59, 0x5A, 0x5B, 0x5C, 0x5D, 0x5E, 0x5F, 0x60, 0x61, 0x62, 0x63] ++
     [0x64, 0x65, 0x66, 0x67, 0x68, 0x69, 0x6A, 0x6B, 0x6D, 0x6E, 0x6F, 0x70, 0x71, 0x72, 0x73] ++
     [0x74, 0x75, 0x76, 0x77, 0x79, 0x7A, 0x7B, 0x7C, 0x7D, 0x7E, 0x7F, 0x80, 0x81, 0x82, 0x83] ++
     [0x87, 0x89, 0x8B, 0x8F, 0x90, 0x91, 0x92, 0x93, 0x97, 0x9B, 0x9C, 0x9E, 0x9F, 0xA1, 0xA3] ++
     [0xA7, 0xAB, 0xAF, 0xB0, 0xB1, 0xB2, 0xB3, 0xB7, 0xBB, 0xBF, 0xC0, 0xC1, 0xC2, 0xC3, 0xC4] ++
     [0xC5, 0xC7, 0xC9, 0xCB, 0xCC, 0xCD, 0xCF, 0xD0, 0xD1, 0xD2, 0xD3, 0xD4, 0xD5, 0xD7, 0xD9] ++
     [0xDA, 0xDB, 0xDC, 0xDD, 0xDF, 0xE0, 0xE1, 0xE2, 0xE3, 0xE4, 0xE5, 0xE7, 0xE9, 0xEB, 0xEC] ++
     [0xED, 0xEF, 0xF0, 0xF1, 0xF2, 0xF3, 0xF4, 0xF5, 0xF7, 0xF9, 0xFA, 0xFB, 0xFC, 0xFD, 0xFF] : List Byte)) ∧
    ∀ q : Byte, dispatch op b1 b2 = .unsupported q → q = op

/-- A step runs the instruction that the bytes at PC decode to. When the bytes at PC decode to an instruction, the step is exec of it on the state whose PC is past the instruction and whose last_read is the address of its last byte. That the operand bytes are read before the handler runs is log 15. Cites: 40_engine_addressing.md section 1 (the step), 20_memory.md section 6 (ordering). -/
def Obligations.StepRunsDecodedInstruction : Prop :=
  ∀ (s : State) (i : Instr) (rest : List Byte),
    decode [s.mem.read s.pc, s.mem.read (s.pc + 1), s.mem.read (s.pc + 2)] = .ok (i, rest) →
      step s = exec i (afterFetch i.length s)

/-- The step equals the spec's step, in which each handler fetches its own operands. For every state, the step, which fetches the whole instruction, decodes it and runs its meaning, gives exactly the next state of the spec's own protocol: read the opcode at PC, advance PC, run table[opcode], whose handler consumes its operand bytes at the current PC. So the model's reading of the operand bytes before the handler runs, log 15, changes nothing. Both sides take the table's bytes from log 3, the length of an unsupported byte from log 5, the pointer's high byte from log 7 and the wrap of an indexed absolute sum from log 8. Cites: 40_engine_addressing.md section 1 (the step), 40_engine_addressing.md section 2 (addressing modes), 30_encoding.md section 3 (the dispatch table), 41_load.md, 42_store.md, 43_transfer.md, 44_incdec.md, 45_logical.md, 46_flag.md, 47_jump.md, 48_nop_unsupported.md. -/
def Obligations.StepIsTheSpecsProtocol : Prop :=
  ∀ s : State, step s = .next (protoStep s)

/-- Every step completes, and its next state depends on registers and memory alone. From every state the step answers a next state (no instruction halts or waits), and two states with the same registers and memory step to states with the same registers and memory: the diagnostic records influence nothing. Cites: R98. -/
def Obligations.StepIsTotalAndAFunctionOfRegistersAndMemory : Prop :=
  (∀ s : State, ∃ t : State, step s = .next t) ∧
  (∀ s t s' t' : State, sameButDiagnostics s t → step s = .next s' → step t = .next t' →
    sameButDiagnostics s' t')

/-- No step reads a flag: states that differ only in P step to states that differ only in P. Two states that agree on everything but P step to states that agree on everything but P. That no instruction reads Decimal, Break, bit 5 or InterruptDisable rests on D3, D4, D16 and D17 of the spec: logs 6 and 13. Cites: 10_state.md section 3 (status register), 60_exceptions.md section 2 (interrupts). -/
def Obligations.StatusNeverInfluencesAnythingElse : Prop :=
  ∀ s t : State, sameButStatus s t →
    ∃ s' t' : State, step s = .next s' ∧ step t = .next t' ∧ sameButStatus s' t'

/-- SP is written only by TXS, read only by TSX, and forms no address. In every step: SP is unchanged unless the instruction is TXS, and changing SP beforehand changes nothing but SP afterwards unless the instruction is TSX. The raw SP is D22 of the spec. Cites: 10_state.md section 2 (registers), 92_eei_decisions.md D22. -/
def Obligations.StackPointerIsWrittenByTxsAndReadByTsxOnly : Prop :=
  (∀ s : State, ∃ t : State, step s = .next t ∧ ((fetchInstr s).1 ≠ .txs → t.sp = s.sp)) ∧
  (∀ s t : State, sameButSp s t → (fetchInstr s).1 ≠ .tsx →
    ∃ s' t' : State, step s = .next s' ∧ step t = .next t' ∧ sameButSp s' t')

/-- Every step keeps memory in its canonical form. From every state whose memory is canonical (addresses strictly rising and below 65536, no cell equal to the unlisted byte), whatever the step answers as next state has canonical memory again. The form is the model's choice: log 1. Cites: 20_memory.md section 1 (address space), 20_memory.md section 2 (memory interface primitives). -/
def Obligations.StepKeepsMemoryCanonical : Prop :=
  ∀ s t : State, SafeState s → step s = .next t → SafeState t

/-- The reset state has every register 0, no diagnostic record and canonical memory. State.reset has PC 0x0000, SP, A, X, Y and P 0x00, last_read and last_write none, and satisfies the invariant. That power-up holds these values is D9 of the spec (log 10); its memory listing nothing is log 1. Cites: 10_state.md section 4 (reset values), 92_eei_decisions.md D9. -/
def Obligations.ResetStateIsSafeAndZero : Prop :=
  SafeState State.reset ∧ State.reset.pc = 0x0000 ∧ State.reset.sp = 0x00 ∧ State.reset.a = 0x00 ∧
    State.reset.x = 0x00 ∧ State.reset.y = 0x00 ∧ State.reset.p = 0x00 ∧
    State.reset.lastRead = none ∧ State.reset.lastWrite = none

/-- Every host command completes and keeps the invariant. From every state whose memory is canonical, every host command, run(n) for every n among them, answers a next state and a reply, and the next state has canonical memory. The canonical form is the model's choice: log 1. The commands' argument types and admission rest on log 11. Cites: 70_reset_and_hazards.md section 3 (host interface), 60_exceptions.md section 1 (synchronous exceptions). -/
def Obligations.EveryHostCommandCompletesAndKeepsSafety : Prop :=
  ∀ (c : HostCommand) (s : State), SafeState s →
    ∃ (t : State) (r : HostReply), hostCommand c s = .next (t, r) ∧ SafeState t

/-- No step writes Break or bit 5, and none sets Overflow, so all three stay 0 once 0. For every step, bits 4 and 5 of P are as before, and Overflow is set after only if it was set before; hence a state in which the three are 0 steps to a state in which they are 0. Bits 4 and 5 as stored bits are D3 and D4 of the spec (log 6). Cites: 10_state.md section 3 (status register), 92_eei_decisions.md D3, D4. -/
def Obligations.BreakBitFiveAndOverflowAreNeverSet : Prop :=
  (∀ s t : State, step s = .next t →
    t.p.getLsbD 4 = s.p.getLsbD 4 ∧ t.p.getLsbD 5 = s.p.getLsbD 5 ∧ (t.p.getLsbD 6 = true → s.p.getLsbD 6 = true)) ∧
  (∀ s t : State, s.p &&& 0x70 = 0 → step s = .next t → t.p &&& 0x70 = 0)

/-- Carry is set only by SEC, cleared only by CLC, and otherwise left alone. Every instruction completes; Carry afterwards is 1 for SEC, 0 for CLC, and as before for every other instruction. Cites: R27. -/
def Obligations.CarryIsWrittenBySecAndClcOnly : Prop :=
  ∀ (i : Instr) (s : State), ∃ t : State, exec i s = .next t ∧
    t.p.getLsbD 0 = (if i = .sec then true else if i = .clc then false else s.p.getLsbD 0)

/-- Zero and Negative are those of the result byte, and no other instruction changes them. Every instruction completes; if it is a load, a transfer other than TXS, an increment, a decrement or AND, with result byte v, then Zero is (v == 0) and Negative is bit 7 of v; every other instruction leaves both as before. Cites: R28, R34. -/
def Obligations.ZeroAndNegativeAreOfTheResultByte : Prop :=
  ∀ (i : Instr) (s : State), ∃ t : State, exec i s = .next t ∧
    (∀ v : Byte, i.resultByte s = some v → t.p.getLsbD 1 = (v == 0) ∧ t.p.getLsbD 7 = v.getLsbD 7) ∧
    (i.resultByte s = none → t.p.getLsbD 1 = s.p.getLsbD 1 ∧ t.p.getLsbD 7 = s.p.getLsbD 7) ∧
    ((∃ v : Byte, i.resultByte s = some v) ↔ i.mnemonic ∈ ["LDA", "LDX", "LDY", "TAX", "TAY", "TXA", "TYA", "TSX",
      "INC", "DEC", "INX", "INY", "DEX", "DEY", "AND"])

/-- InterruptDisable is written by SEI and CLI, Decimal by SED and CLD, Overflow by CLV, and by nothing else. Every instruction completes; bit 2 afterwards is 1 for SEI, 0 for CLI and else as before; bit 3 is 1 for SED, 0 for CLD and else as before; bit 6 is 0 for CLV and else as before. The Decimal flag's lack of other effect is D17 of the spec. Cites: 10_state.md section 3 (status register), 46_flag.md, 92_eei_decisions.md D17. -/
def Obligations.InterruptDisableDecimalAndOverflowWriters : Prop :=
  ∀ (i : Instr) (s : State), ∃ t : State, exec i s = .next t ∧
    t.p.getLsbD 2 = (if i = .sei then true else if i = .cli then false else s.p.getLsbD 2) ∧
    t.p.getLsbD 3 = (if i = .sed then true else if i = .cld then false else s.p.getLsbD 3) ∧
    t.p.getLsbD 6 = (if i = .clv then false else s.p.getLsbD 6)

/-- No register changes but the destination register. Every instruction completes and leaves every one of A, X, Y and SP that is not its destination register as it was; the destination is the loaded, transferred, incremented, decremented or ANDed register, SP for TXS, and none for stores, memory INC and DEC, flag instructions, jumps, NOP and the unsupported handler. Cites: 10_state.md section 2 (registers, access summary). -/
def Obligations.RegisterFrame : Prop :=
  ∀ (i : Instr) (s : State), ∃ t : State, exec i s = .next t ∧
    ∀ r : Reg, i.destReg ≠ some r → t.reg r = s.reg r

/-- No bit of P changes but those the instruction writes. Every instruction completes and leaves every bit of P outside its mask as it was: the mask is Zero and Negative for loads, transfers other than TXS, increments, decrements and AND, the one named flag for the flag instructions, and empty for stores, TXS, jumps, NOP and the unsupported handler. Cites: 10_state.md section 3 (status register). -/
def Obligations.StatusFrame : Prop :=
  ∀ (i : Instr) (s : State), ∃ t : State, exec i s = .next t ∧
    ∀ k : Nat, i.statusMask.getLsbD k = false → t.p.getLsbD k = s.p.getLsbD k

/-- No byte of memory changes but the one stored to, which holds the stored byte. Every instruction completes. For a form that stores (STA, STX, STY, INC, DEC), with the address its meaning computes, every other address reads as before and, in canonical memory, that address reads as the source register or the incremented or decremented byte; for a form that stores nothing, every address reads as before. Cites: 20_memory.md section 2 (memory interface primitives), 42_store.md, 44_incdec.md. -/
def Obligations.MemoryFrameAndStoredByte : Prop :=
  ∀ (i : Instr) (s : State), ∃ t : State, exec i s = .next t ∧
    (∀ addr : Addr, i.storeAddr s = some addr →
      (∀ b : Addr, b ≠ addr → t.mem.read b = s.mem.read b) ∧
      (SafeState s → t.mem.read addr =
        (if i.mnemonic = "STA" then s.a else if i.mnemonic = "STX" then s.x else if i.mnemonic = "STY" then s.y
          else if i.mnemonic = "INC" then s.mem.read addr + 1 else s.mem.read addr - 1))) ∧
    (i.storeAddr s = none → ∀ b : Addr, t.mem.read b = s.mem.read b) ∧
    ((∃ addr : Addr, i.storeAddr s = some addr) ↔ i.mnemonic ∈ ["STA", "STX", "STY", "INC", "DEC"])

/-- After a step PC is past the instruction or at the jump target, and the records hold the last accesses. Every step completes. PC is opaddr plus the length, modulo 65536, unless the instruction is a JMP; for JMP absolute it is the operand word, and for JMP indirect the little-endian word at the pointer and the address after it. last_read is the data address if the instruction reads data, the high pointer byte's address for JMP indirect, and else the address of the instruction's last byte; last_write is the stored address, and unchanged if nothing is stored. That the pointer's high byte is at pointer + 1 with no page wrap is D5 of the spec (log 7), the wrap in an indexed absolute address is D6 (log 8), and the access order and the absence of dummy accesses are D7 and D8 (log 9). Cites: 40_engine_addressing.md section 2 (PC after a handler), 47_jump.md, 20_memory.md section 6 (ordering), 92_eei_decisions.md D5, D6, D7, D8. -/
def Obligations.PcAndRecordsAfterStep : Prop :=
  ∀ s : State, ∃ t : State, step s = .next t ∧
    ((fetchInstr s).1.isJump = false → t.pc = s.pc + BitVec.ofNat 16 (fetchInstr s).1.length) ∧
    (∀ w : Addr, (fetchInstr s).1 = .jmpAbs w → t.pc = w) ∧
    (∀ ptr : Addr, (fetchInstr s).1 = .jmpInd ptr →
      t.pc = ((s.mem.read (ptr + 1)).setWidth 16 <<< 8) ||| (s.mem.read ptr).setWidth 16) ∧
    t.lastRead = (match (fetchInstr s).1, (fetchInstr s).1.dataReadAddr s with
      | .jmpInd ptr, _ => some (ptr + 1)
      | _, some addr => some addr
      | i, none => some (s.pc + BitVec.ofNat 16 (i.length - 1))) ∧
    t.lastWrite = (match (fetchInstr s).1.storeAddr s with
      | some addr => some addr
      | none => s.lastWrite)

/-- A is written by LDA, TXA, TYA, AND and read by STA, TAX, TAY, AND, and forms no address. Every instruction completes. LDA, TXA, TYA and AND leave their result byte in A; every other instruction leaves A as it was. STA stores A (read back in canonical memory), TAX and TAY copy it, and AND combines it with the immediate byte or the byte at its data address. Whatever A holds beforehand, LDA, TXA and TYA give the same next state, and every instruction that neither reads nor writes A gives the same next state but for A itself. No instruction's data or store address depends on A. Cites: R23. -/
def Obligations.AccumulatorReadersAndWriters : Prop :=
  ∀ (i : Instr) (s : State) (v : Byte), ∃ t t' : State,
    exec i s = .next t ∧ exec i { s with a := v } = .next t' ∧
    (i.mnemonic ∉ ["LDA", "TXA", "TYA", "AND"] → t.a = s.a) ∧
    (i.mnemonic ∈ ["LDA", "TXA", "TYA", "AND"] → i.resultByte s = some t.a) ∧
    (i.mnemonic ∈ ["LDA", "TXA", "TYA"] → t' = t) ∧
    (i.mnemonic ∉ ["LDA", "TXA", "TYA", "STA", "TAX", "TAY", "AND"] → { t' with a := s.a } = t) ∧
    (i.mnemonic = "STA" → ∃ addr : Addr, i.storeAddr s = some addr ∧ (SafeState s → t.mem.read addr = s.a)) ∧
    (i = .tax → t.x = s.a) ∧ (i = .tay → t.y = s.a) ∧
    (∀ m : Byte, i = .andImm m → t.a = s.a &&& m) ∧
    (∀ addr : Addr, i.mnemonic = "AND" → i.dataReadAddr s = some addr → t.a = s.a &&& s.mem.read addr) ∧
    i.dataReadAddr { s with a := v } = i.dataReadAddr s ∧ i.storeAddr { s with a := v } = i.storeAddr s

/-- X and Y have the writers and readers the spec lists, read as unsigned, with no hard-wired or aliased register. Every instruction completes. LDX, TAX, TSX, INX and DEX leave their result byte in X, and every other instruction leaves X as it was. STX stores X (read back in canonical memory), TXA and TXS copy it, INX and DEX count from it, and the data or store address of every Zero Page,X and Absolute,X form is its operand indexed by X. Whatever X holds beforehand, LDX, TAX and TSX give the same next state, and every instruction that neither reads nor writes X gives the same next state but for X itself. The same holds of Y with LDY, TAY, INY, DEY, STY, TYA and the Zero Page,Y and Absolute,Y modes. An index is added as an unsigned number, modulo 256 in page zero; where the absolute sum stays in the address space it is the sum of the two numbers. A register read after a write holds the value written, and writing one register changes no other. Cites: R24. -/
def Obligations.IndexRegisterReadersAndWriters : Prop :=
  (∀ (i : Instr) (s : State) (v : Byte), ∃ t t' : State,
    exec i s = .next t ∧ exec i { s with x := v } = .next t' ∧
    (i.mnemonic ∉ ["LDX", "TAX", "TSX", "INX", "DEX"] → t.x = s.x) ∧
    (i.mnemonic ∈ ["LDX", "TAX", "TSX", "INX", "DEX"] → i.resultByte s = some t.x) ∧
    (i.mnemonic ∈ ["LDX", "TAX", "TSX"] → t' = t) ∧
    (i.mnemonic ∉ ["LDX", "TAX", "TSX", "STX", "TXA", "TXS", "INX", "DEX"] → i.mode ≠ .zeroPageX →
      i.mode ≠ .absoluteX → { t' with x := s.x } = t) ∧
    (i.mnemonic = "STX" → ∃ addr : Addr, i.storeAddr s = some addr ∧ (SafeState s → t.mem.read addr = s.x)) ∧
    (i = .txa → t.a = s.x) ∧ (i = .txs → t.sp = s.x) ∧ (i = .inx → t.x = s.x + 1) ∧ (i = .dex → t.x = s.x - 1) ∧
    (i.mode = .zeroPageX → ∃ nn : Byte, i.operandBytes = [nn] ∧
      (i.dataReadAddr s = some (eaZpX nn s) ∨ i.storeAddr s = some (eaZpX nn s))) ∧
    (i.mode = .absoluteX → ∃ w : Addr, i.operandBytes = [lowByte w, highByte w] ∧
      (i.dataReadAddr s = some (eaAbsX w s) ∨ i.storeAddr s = some (eaAbsX w s)))) ∧
  (∀ (i : Instr) (s : State) (v : Byte), ∃ t t' : State,
    exec i s = .next t ∧ exec i { s with y := v } = .next t' ∧
    (i.mnemonic ∉ ["LDY", "TAY", "INY", "DEY"] → t.y = s.y) ∧
    (i.mnemonic ∈ ["LDY", "TAY", "INY", "DEY"] → i.resultByte s = some t.y) ∧
    (i.mnemonic ∈ ["LDY", "TAY"] → t' = t) ∧
    (i.mnemonic ∉ ["LDY", "TAY", "STY", "TYA", "INY", "DEY"] → i.mode ≠ .zeroPageY →
      i.mode ≠ .absoluteY → { t' with y := s.y } = t) ∧
    (i.mnemonic = "STY" → ∃ addr : Addr, i.storeAddr s = some addr ∧ (SafeState s → t.mem.read addr = s.y)) ∧
    (i = .tya → t.a = s.y) ∧ (i = .iny → t.y = s.y + 1) ∧ (i = .dey → t.y = s.y - 1) ∧
    (i.mode = .zeroPageY → ∃ nn : Byte, i.operandBytes = [nn] ∧
      (i.dataReadAddr s = some (eaZpY nn s) ∨ i.storeAddr s = some (eaZpY nn s))) ∧
    (i.mode = .absoluteY → ∃ w : Addr, i.operandBytes = [lowByte w, highByte w] ∧
      (i.dataReadAddr s = some (eaAbsY w s) ∨ i.storeAddr s = some (eaAbsY w s)))) ∧
  (∀ (s : State) (w : Addr) (nn : Byte),
    (eaZpX nn s).toNat = (nn.toNat + s.x.toNat) % 256 ∧ (eaZpY nn s).toNat = (nn.toNat + s.y.toNat) % 256 ∧
    (w.toNat + s.x.toNat < 65536 → (eaAbsX w s).toNat = w.toNat + s.x.toNat) ∧
    (w.toNat + s.y.toNat < 65536 → (eaAbsY w s).toNat = w.toNat + s.y.toNat)) ∧
  (∀ (s : State) (r q : Reg) (v : Byte), (s.setReg r v).reg r = v ∧ (q ≠ r → (s.setReg r v).reg q = s.reg q))

/-- MemRead returns the byte and sets last_read, changing nothing else. MemRead of any address returns the byte of memory there and changes last_read to that address and nothing else; it always completes. Cites: R41. -/
def Obligations.MemReadEffect : Prop :=
  ∀ (s : State) (addr : Addr),
    memRead s addr = (s.mem.read addr, { s with lastRead := some addr })

/-- MemWrite stores the byte and sets last_write, changing nothing else. In canonical memory, after MemWrite of v at an address that address reads as v, every other address reads as before, last_write is the address, and every other part of the state is as before; it always completes. Cites: R42. -/
def Obligations.MemWriteEffect : Prop :=
  ∀ (s : State) (addr : Addr) (v : Byte), SafeState s →
    (∀ b : Addr, (memWrite s addr v).mem.read b = if b = addr then v else s.mem.read b) ∧
    (memWrite s addr v).lastWrite = some addr ∧
    { memWrite s addr v with mem := s.mem, lastWrite := s.lastWrite } = s

/-- A read changes only last_read and repeats; writing the same value twice is writing it once. MemRead changes nothing but last_read, reading an address twice returns the same byte, and in canonical memory a second write of the same value to the same address leaves the same state as the first. Cites: R47. -/
def Obligations.ReadsArePureAndWritesIdempotent : Prop :=
  (∀ (s : State) (addr : Addr), { (memRead s addr).2 with lastRead := s.lastRead } = s ∧
    (memRead (memRead s addr).2 addr).1 = (memRead s addr).1) ∧
  (∀ (s : State) (addr : Addr) (v : Byte), SafeState s →
    memWrite (memWrite s addr v) addr v = memWrite s addr v)

/-- Two canonical memories that read the same at every address are equal. If two memories are in canonical form and every address reads the same in both, they are the same list. The form is the model's choice: log 1. Cites: 20_memory.md section 1 (address space). -/
def Obligations.MemoriesThatReadEqualAreEqual : Prop :=
  ∀ m n : Memory, m.wf → n.wf → (∀ addr : Addr, m.read addr = n.read addr) → m = n

/-- Power-up with any MEM0 has memory MEM0, registers 0 and no diagnostic record. For every launch image, the power-up state reads as that image at every address, its registers and P are 0, and last_read and last_write are none. This is D9 of the spec (log 10). Cites: 70_reset_and_hazards.md section 1 (reset), 92_eei_decisions.md D9. -/
def Obligations.PowerUpHoldsTheLaunchImage : Prop :=
  ∀ mem0 : Config.LaunchImage,
    (∀ addr : Addr, (State.powerUp mem0).mem.read addr = mem0 addr) ∧
    { State.powerUp mem0 with mem := [] } = State.reset

/-- State.reset is power-up with the image in which every byte is 0x00. Power-up with the all-zero launch image is State.reset, the list of no cells for its memory. That image is the model's choice: log 1. Cites: 10_state.md section 4 (reset values). -/
def Obligations.ResetIsPowerUpWithTheZeroImage : Prop :=
  State.powerUp (fun _ => 0x00) = State.reset

/-- FetchByte reads at PC and advances it; FetchWord is two of them, low byte first. FetchByte returns the byte at PC, sets last_read to PC and advances PC by 1 modulo 65536, changing nothing else; FetchWord is FetchByte for the low byte, then FetchByte for the high byte, and returns high byte then low byte as one word. Cites: R83, R84. -/
def Obligations.FetchByteAndFetchWord : Prop :=
  (∀ s : State, fetchByte s = (s.mem.read s.pc, { s with lastRead := some s.pc, pc := s.pc + 1 })) ∧
  (∀ s : State, fetchWord s =
    (((fetchByte (fetchByte s).2).1.setWidth 16 <<< 8) ||| (fetchByte s).1.setWidth 16,
      (fetchByte (fetchByte s).2).2)) ∧
  (∀ s : State, ((fetchByte s).2.pc).toNat = (s.pc.toNat + 1) % 65536 ∧
    (fetchWord s).2.lastRead = some (s.pc + 1))

/-- An operand word is (hh << 8) | ll with the low byte first in memory, unsigned. The operand word that the fetch reads at PC is, as a number, 256 times the byte at PC + 1 plus the byte at PC, and is the two bytes combined as (hh << 8) | ll. Cites: R64. -/
def Obligations.OperandWordIsLittleEndian : Prop :=
  ∀ s : State,
    (fetchWord s).1.toNat = (s.mem.read (s.pc + 1)).toNat * 256 + (s.mem.read s.pc).toNat ∧
    (fetchWord s).1 = ((s.mem.read (s.pc + 1)).setWidth 16 <<< 8) ||| (s.mem.read s.pc).setWidth 16

/-- A byte written by a step or by the host is the byte the next fetch of that address sees. In canonical memory, for every address: after the host writes a byte there, FetchByte with PC at that address returns it; and after any step that stores there, FetchByte with PC at that address returns the stored byte, which is what the running instruction computed from its own already fetched operands. So the write takes effect for the next fetch and not for the running instruction. This is D20 of the spec. Cites: 20_memory.md section 6 (ordering), 92_eei_decisions.md D20. -/
def Obligations.FetchSeesEveryEarlierWrite : Prop :=
  (∀ (s : State) (addr : Addr) (v : Byte), SafeState s →
    (fetchByte { hostWrite addr v s with pc := addr }).1 = v) ∧
  (∀ (s t : State) (addr : Addr) (v : Byte), SafeState s → step s = .next t →
    (fetchInstr s).1.storeAddr s = some addr → reportValue (fetchInstr s).1 s = some v →
    (fetchByte { t with pc := addr }).1 = v)

/-- SetZN writes Zero and Negative from the value alone and leaves every other flag and field. For every state and byte v, after SetZN(v) bit 1 of P is (v == 0), bit 7 is bit 7 of v, every other bit of P is as before, and nothing but P changes. Cites: R36. -/
def Obligations.SetZnBits : Prop :=
  ∀ (s : State) (v : Byte),
    (∀ k : Nat, k < 8 → (s.setZN v).p.getLsbD k =
      (if k = 1 then v == 0 else if k = 7 then v.getLsbD 7 else s.p.getLsbD k)) ∧
    { s.setZN v with p := s.p } = s

/-- SetFlags, ClearFlags and HasFlag are OR, AND-NOT and any-bit-set; with SetZN, only they write P. SetFlags(mask) is P | mask and ClearFlags(mask) is P & (~mask & 0xFF), each changing nothing else, for masks of any number of flags; HasFlag(mask) is true iff some bit of the mask is set in P; and after every instruction P is as before or is what one of SetFlags, ClearFlags and SetZN makes of it. Cites: R35. -/
def Obligations.StatusPrimitives : Prop :=
  (∀ (s : State) (mask : Byte), s.setFlags mask = { s with p := s.p ||| mask } ∧
    s.clearFlags mask = { s with p := s.p &&& (~~~mask &&& 0xFF) } ∧
    (s.hasFlag mask = true ↔ ∃ k : Nat, k < 8 ∧ mask.getLsbD k = true ∧ s.p.getLsbD k = true)) ∧
  (∀ (i : Instr) (s : State), ∃ t : State, exec i s = .next t ∧
    (t.p = s.p ∨ (∃ v : Byte, t.p = (s.setZN v).p) ∨
      (∃ mask : Byte, mask ∈ [0x01, 0x04, 0x08] ∧ t.p = (s.setFlags mask).p) ∨
      (∃ mask : Byte, mask ∈ [0x01, 0x04, 0x08, 0x40] ∧ t.p = (s.clearFlags mask).p)))

/-- Inspection shows the whole byte P and each flag by name, equal to its bit. The host's inspection of the registers returns every register, the byte P, and each named flag as its bit of P, which is HasFlag of the flag's mask; the state is unchanged. Cites: R37. -/
def Obligations.InspectionShowsFlagsByName : Prop :=
  ∀ s : State, ∃ v : RegisterView, hostCommand .inspectRegisters s = .next (s, .registers v) ∧
    v.pc = s.pc ∧ v.sp = s.sp ∧ v.a = s.a ∧ v.x = s.x ∧ v.y = s.y ∧ v.p = s.p ∧
    v.carry = s.p.getLsbD 0 ∧ v.zero = s.p.getLsbD 1 ∧ v.interruptDisable = s.p.getLsbD 2 ∧
    v.decimal = s.p.getLsbD 3 ∧ v.brk = s.p.getLsbD 4 ∧ v.overflow = s.p.getLsbD 6 ∧ v.negative = s.p.getLsbD 7 ∧
    v.carry = s.hasFlag 0x01 ∧ v.zero = s.hasFlag 0x02 ∧ v.interruptDisable = s.hasFlag 0x04 ∧
    v.decimal = s.hasFlag 0x08 ∧ v.brk = s.hasFlag 0x10 ∧ v.overflow = s.hasFlag 0x40 ∧ v.negative = s.hasFlag 0x80

/-- Zero Page, Zero Page,X and Zero Page,Y consume one byte and stay within page zero. Each zero-page mode consumes one operand byte b and gives b, (b + X) mod 256 or (b + Y) mod 256 as an address below 256, and the address that the model's operand form computes from the fetched byte is the same. Cites: R87, R88, R89. -/
def Obligations.ZeroPageAddresses : Prop :=
  ∀ (s : State) (b : Byte) (s1 : State), fetchByte s = (b, s1) →
    (∃ addr : Addr, protoEaZp s = (addr, s1) ∧ addr = eaZp b ∧ addr.toNat = b.toNat) ∧
    (∃ addr : Addr, protoEaZpX s = (addr, s1) ∧ addr = eaZpX b s1 ∧ addr.toNat = (b.toNat + s.x.toNat) % 256) ∧
    (∃ addr : Addr, protoEaZpY s = (addr, s1) ∧ addr = eaZpY b s1 ∧ addr.toNat = (b.toNat + s.y.toNat) % 256)

/-- Absolute is the operand word; Absolute,X and ,Y add the index modulo 65536. Each absolute mode consumes one operand word w and gives w, (w + X) mod 65536 or (w + Y) mod 65536, and the address that the model's operand form computes from the fetched word is the same; those forms wrap so for every word and every index. The wrap of the indexed sum is D6 of the spec (log 8). Cites: 40_engine_addressing.md section 2 (addressing modes), 90_conflicts.md C3, 92_eei_decisions.md D6. -/
def Obligations.AbsoluteAddresses : Prop :=
  (∀ (s : State) (w : Addr) (s1 : State), fetchWord s = (w, s1) →
    (protoEaAbs s = (w, s1) ∧ eaAbs w = w) ∧
    (∃ addr : Addr, protoEaAbsX s = (addr, s1) ∧ addr = eaAbsX w s1 ∧ addr.toNat = (w.toNat + s.x.toNat) % 65536) ∧
    (∃ addr : Addr, protoEaAbsY s = (addr, s1) ∧ addr = eaAbsY w s1 ∧ addr.toNat = (w.toNat + s.y.toNat) % 65536)) ∧
  (∀ (s : State) (w : Addr),
    (eaAbsX w s).toNat = (w.toNat + s.x.toNat) % 65536 ∧ (eaAbsY w s).toNat = (w.toNat + s.y.toNat) % 65536)

/-- Indirect reads the target word at p and (p + 1) mod 65536, low byte first. The Indirect mode's target is, as a number, 256 times the byte at (p + 1) mod 65536 plus the byte at p, with no wrap within the page of p; it leaves last_read at (p + 1) mod 65536 and changes nothing else. No page wrap is D5 of the spec (log 7). Cites: 40_engine_addressing.md section 2 (addressing modes), 92_eei_decisions.md D5. -/
def Obligations.IndirectTargetHasNoPageWrap : Prop :=
  ∀ (ptr : Addr) (s : State),
    (eaInd ptr s).1.toNat =
      (s.mem.read (BitVec.ofNat 16 (ptr.toNat + 1))).toNat * 256 + (s.mem.read ptr).toNat ∧
    (eaInd ptr s).2 = { s with lastRead := some (BitVec.ofNat 16 (ptr.toNat + 1)) }

/-- Every form of LDA completes with A loaded, Zero and Negative of the byte, and the rest as before. From every state (after the fetch), every form of LDA answers the state in which A is the immediate byte or the byte at the effective address, P has Zero and Negative of that byte, last_read is the effective address if memory is read, and everything else is as before. The indexed absolute sum wraps by D6 of the spec (log 8). Cites: 41_load.md, 40_engine_addressing.md section 2 (addressing modes). -/
def Obligations.LdaResults : Prop :=
  ∀ (s : State) (v nn : Byte) (w : Addr),
    let after := fun ea : Addr =>
      ({ s with a := s.mem.read ea, p := statusZN (s.mem.read ea) s.p, lastRead := some ea } : State)
    exec (.ldaImm v) s = .next { s with a := v, p := statusZN v s.p } ∧
    exec (.ldaZp nn) s = .next (after (nn.setWidth 16)) ∧
    exec (.ldaZpX nn) s = .next (after ((nn + s.x).setWidth 16)) ∧
    exec (.ldaAbs w) s = .next (after (w)) ∧
    exec (.ldaAbsX w) s = .next (after (w + s.x.setWidth 16)) ∧
    exec (.ldaAbsY w) s = .next (after (w + s.y.setWidth 16))

/-- Every form of LDX completes with X loaded, Zero and Negative of the byte, and the rest as before. From every state (after the fetch), every form of LDX answers the state in which X is the immediate byte or the byte at the effective address, P has Zero and Negative of that byte, last_read is the effective address if memory is read, and everything else is as before. The indexed absolute sum wraps by D6 of the spec (log 8). Cites: 41_load.md, 40_engine_addressing.md section 2 (addressing modes). -/
def Obligations.LdxResults : Prop :=
  ∀ (s : State) (v nn : Byte) (w : Addr),
    let after := fun ea : Addr =>
      ({ s with x := s.mem.read ea, p := statusZN (s.mem.read ea) s.p, lastRead := some ea } : State)
    exec (.ldxImm v) s = .next { s with x := v, p := statusZN v s.p } ∧
    exec (.ldxZp nn) s = .next (after (nn.setWidth 16)) ∧
    exec (.ldxZpY nn) s = .next (after ((nn + s.y).setWidth 16)) ∧
    exec (.ldxAbs w) s = .next (after (w)) ∧
    exec (.ldxAbsY w) s = .next (after (w + s.y.setWidth 16))

/-- Every form of LDY completes with Y loaded, Zero and Negative of the byte, and the rest as before. From every state (after the fetch), every form of LDY answers the state in which Y is the immediate byte or the byte at the effective address, P has Zero and Negative of that byte, last_read is the effective address if memory is read, and everything else is as before. The indexed absolute sum wraps by D6 of the spec (log 8). Cites: 41_load.md, 40_engine_addressing.md section 2 (addressing modes). -/
def Obligations.LdyResults : Prop :=
  ∀ (s : State) (v nn : Byte) (w : Addr),
    let after := fun ea : Addr =>
      ({ s with y := s.mem.read ea, p := statusZN (s.mem.read ea) s.p, lastRead := some ea } : State)
    exec (.ldyImm v) s = .next { s with y := v, p := statusZN v s.p } ∧
    exec (.ldyZp nn) s = .next (after (nn.setWidth 16)) ∧
    exec (.ldyZpX nn) s = .next (after ((nn + s.x).setWidth 16)) ∧
    exec (.ldyAbs w) s = .next (after (w)) ∧
    exec (.ldyAbsX w) s = .next (after (w + s.x.setWidth 16))

/-- Every form of STA completes with A stored at the effective address and the rest as before. From every state (after the fetch), every form of STA answers the state in which memory holds A at the effective address, last_write is that address, and everything else, P included, is as before. The indexed absolute sum wraps by D6 of the spec (log 8). Cites: 42_store.md, 40_engine_addressing.md section 2 (addressing modes). -/
def Obligations.StaResults : Prop :=
  ∀ (s : State) (nn : Byte) (w : Addr),
    let after := fun ea : Addr => ({ s with mem := s.mem.write ea s.a, lastWrite := some ea } : State)
    exec (.staZp nn) s = .next (after (nn.setWidth 16)) ∧
    exec (.staZpX nn) s = .next (after ((nn + s.x).setWidth 16)) ∧
    exec (.staAbs w) s = .next (after (w)) ∧
    exec (.staAbsX w) s = .next (after (w + s.x.setWidth 16)) ∧
    exec (.staAbsY w) s = .next (after (w + s.y.setWidth 16))

/-- Every form of STX and STY completes with the register stored and the rest as before. From every state (after the fetch), every form of STX or STY answers the state in which memory holds X or Y at the effective address, last_write is that address, and everything else, P included, is as before. Cites: 42_store.md, 40_engine_addressing.md section 2 (addressing modes). -/
def Obligations.StxStyResults : Prop :=
  ∀ (s : State) (nn : Byte) (w : Addr),
    let afterX := fun ea : Addr => ({ s with mem := s.mem.write ea s.x, lastWrite := some ea } : State)
    let afterY := fun ea : Addr => ({ s with mem := s.mem.write ea s.y, lastWrite := some ea } : State)
    exec (.stxZp nn) s = .next (afterX (nn.setWidth 16)) ∧
    exec (.stxZpY nn) s = .next (afterX ((nn + s.y).setWidth 16)) ∧
    exec (.stxAbs w) s = .next (afterX (w)) ∧
    exec (.styZp nn) s = .next (afterY (nn.setWidth 16)) ∧
    exec (.styZpX nn) s = .next (afterY ((nn + s.x).setWidth 16)) ∧
    exec (.styAbs w) s = .next (afterY (w))

/-- Every transfer completes with the destination equal to the source, and flags except for TXS. From every state (after the fetch), TAX, TAY, TXA, TYA and TSX answer the state with the destination equal to the source and Zero and Negative of that byte, TXS the state with SP equal to X and P as before; everything else is as before. Cites: 43_transfer.md, 90_conflicts.md C5. -/
def Obligations.TransferResults : Prop :=
  ∀ s : State,
    exec .tax s = .next { s with x := s.a, p := statusZN s.a s.p } ∧
    exec .tay s = .next { s with y := s.a, p := statusZN s.a s.p } ∧
    exec .txa s = .next { s with a := s.x, p := statusZN s.x s.p } ∧
    exec .tya s = .next { s with a := s.y, p := statusZN s.y s.p } ∧
    exec .tsx s = .next { s with x := s.sp, p := statusZN s.sp s.p } ∧
    exec .txs s = .next { s with sp := s.x }

/-- Every form of INC and DEC completes with the byte at the effective address changed by 1. From every state (after the fetch), every form of INC or DEC answers the state in which the byte at the effective address is one more or one less, modulo 256, P has Zero and Negative of the new byte, last_read and last_write are the effective address, and everything else is as before. The indexed absolute sum wraps by D6 of the spec (log 8), and no dummy access is D8 (log 9). Cites: 44_incdec.md, 40_engine_addressing.md section 2 (addressing modes), 92_eei_decisions.md D6, D8. -/
def Obligations.MemoryIncDecResults : Prop :=
  ∀ (s : State) (nn : Byte) (w : Addr),
    let afterInc := fun ea : Addr => ({ s with mem := s.mem.write ea (s.mem.read ea + 1), p := statusZN (s.mem.read ea + 1) s.p, lastRead := some ea, lastWrite := some ea } : State)
    let afterDec := fun ea : Addr => ({ s with mem := s.mem.write ea (s.mem.read ea - 1), p := statusZN (s.mem.read ea - 1) s.p, lastRead := some ea, lastWrite := some ea } : State)
    exec (.incZp nn) s = .next (afterInc (nn.setWidth 16)) ∧
    exec (.incZpX nn) s = .next (afterInc ((nn + s.x).setWidth 16)) ∧
    exec (.incAbs w) s = .next (afterInc (w)) ∧
    exec (.incAbsX w) s = .next (afterInc (w + s.x.setWidth 16)) ∧
    exec (.decZp nn) s = .next (afterDec (nn.setWidth 16)) ∧
    exec (.decZpX nn) s = .next (afterDec ((nn + s.x).setWidth 16)) ∧
    exec (.decAbs w) s = .next (afterDec (w)) ∧
    exec (.decAbsX w) s = .next (afterDec (w + s.x.setWidth 16))

/-- INX, INY, DEX and DEY complete with the register changed by 1 modulo 256, and Zero and Negative of it. From every state (after the fetch), INX, INY, DEX and DEY answer the state with X or Y one more or one less, wrapping, Zero and Negative of the new byte, and everything else, Carry and Overflow included, as before. Cites: 44_incdec.md. -/
def Obligations.RegisterIncDecResults : Prop :=
  ∀ s : State,
    exec .inx s = .next { s with x := s.x + 1, p := statusZN (s.x + 1) s.p } ∧
    exec .iny s = .next { s with y := s.y + 1, p := statusZN (s.y + 1) s.p } ∧
    exec .dex s = .next { s with x := s.x - 1, p := statusZN (s.x - 1) s.p } ∧
    exec .dey s = .next { s with y := s.y - 1, p := statusZN (s.y - 1) s.p }

/-- Every form of AND completes with A the bitwise AND, and Zero and Negative of it. From every state (after the fetch), every form of AND answers the state in which A is A AND the immediate byte or the byte at the effective address, P has Zero and Negative of the result, last_read is the effective address if memory is read, and everything else is as before. The indexed absolute sum wraps by D6 of the spec (log 8). Cites: 45_logical.md, 40_engine_addressing.md section 2 (addressing modes). -/
def Obligations.AndResults : Prop :=
  ∀ (s : State) (v nn : Byte) (w : Addr),
    let after := fun ea : Addr => ({ s with a := s.a &&& s.mem.read ea, p := statusZN (s.a &&& s.mem.read ea) s.p, lastRead := some ea } : State)
    exec (.andImm v) s = .next { s with a := s.a &&& v, p := statusZN (s.a &&& v) s.p } ∧
    exec (.andZp nn) s = .next (after (nn.setWidth 16)) ∧
    exec (.andZpX nn) s = .next (after ((nn + s.x).setWidth 16)) ∧
    exec (.andAbs w) s = .next (after (w)) ∧
    exec (.andAbsX w) s = .next (after (w + s.x.setWidth 16)) ∧
    exec (.andAbsY w) s = .next (after (w + s.y.setWidth 16))

/-- Each flag instruction completes with its one bit of P set or cleared and nothing else changed. From every state (after the fetch), SEC, SED and SEI answer the state with bit 0, 3 or 2 of P set, CLC, CLD, CLI and CLV the state with bit 0, 3, 2 or 6 cleared, and everything else as before. Cites: 46_flag.md. -/
def Obligations.FlagInstructionResults : Prop :=
  ∀ s : State,
    exec .sec s = .next { s with p := s.p ||| 0x01 } ∧
    exec .sed s = .next { s with p := s.p ||| 0x08 } ∧
    exec .sei s = .next { s with p := s.p ||| 0x04 } ∧
    exec .clc s = .next { s with p := s.p &&& 0xFE } ∧
    exec .cld s = .next { s with p := s.p &&& 0xF7 } ∧
    exec .cli s = .next { s with p := s.p &&& 0xFB } ∧
    exec .clv s = .next { s with p := s.p &&& 0xBF }

/-- JMP absolute and JMP indirect complete with PC at the target and nothing else but last_read changed. From every state (after the fetch), JMP absolute answers the state with PC the operand word; JMP indirect the state with PC the little-endian word at the pointer and the address after it, modulo 65536, and last_read that address; everything else is as before. No page wrap is D5 of the spec (log 7). Cites: 47_jump.md, 92_eei_decisions.md D5. -/
def Obligations.JumpResults : Prop :=
  ∀ (s : State) (w : Addr),
    exec (.jmpAbs w) s = .next { s with pc := w } ∧
    exec (.jmpInd w) s = .next { s with pc := ((s.mem.read (w + 1)).setWidth 16 <<< 8) ||| (s.mem.read w).setWidth 16, lastRead := some (w + 1) }

/-- NOP and the unsupported handler complete and change nothing after the fetch. From every state (after the fetch), NOP and the unsupported handler of every byte answer that same state. That the unsupported handler consumes no operand bytes is D2 of the spec (log 5). Cites: 48_nop_unsupported.md, 92_eei_decisions.md D2. -/
def Obligations.NopAndUnsupportedResults : Prop :=
  ∀ (s : State) (op : Byte), exec .nop s = .next s ∧ exec (.unsupported op) s = .next s

/-- A step on a byte outside the core set only advances PC by 1 and records the fetch. For every state whose byte at PC is outside the core set, the step changes only PC, to PC + 1 modulo 65536, and last_read, to the opcode's address; the step report says supported = false. That no operand bytes are consumed is D2 of the spec (log 5); which bytes these are is D1 (log 3). Cites: 48_nop_unsupported.md, 92_eei_decisions.md D1, D2, 95_test_vectors.md E5. -/
def Obligations.UnsupportedByteAdvancesPcByOne : Prop :=
  ∀ s : State, s.mem.read s.pc ∉ coreOpcodes →
    step s = .next { s with pc := s.pc + 1, lastRead := some s.pc } ∧
    (stepReport s).supported = false ∧ (stepReport s).handler = "UNSUPPORTED"

/-- reset() twice is reset() once, with every register 0. Calling reset() twice in a row leaves the state that calling it once leaves, and in it PC, SP, A, X, Y and P are 0. Cites: R221. -/
def Obligations.ResetIsIdempotent : Prop :=
  ∀ s : State, hostReset (hostReset s) = hostReset s ∧
    (hostReset s).pc = 0 ∧ (hostReset s).sp = 0 ∧ (hostReset s).a = 0 ∧ (hostReset s).x = 0 ∧
    (hostReset s).y = 0 ∧ (hostReset s).p = 0

/-- The reset command zeroes the registers and leaves memory and the diagnostic records. The host's reset command sets PC, SP, A, X, Y and P to 0, replies nothing, and leaves memory, last_read and last_write as they were. That the records stay is D10 of the spec (log 10). Cites: 70_reset_and_hazards.md section 1 (reset), 92_eei_decisions.md D10. -/
def Obligations.ResetCommandKeepsMemoryAndRecords : Prop :=
  ∀ s : State, hostCommand .reset s =
    .next ({ pc := 0x0000, sp := 0x00, a := 0x00, x := 0x00, y := 0x00, p := 0x00, mem := s.mem,
             lastRead := s.lastRead, lastWrite := s.lastWrite }, .nothing)

/-- run(n) completes after exactly n steps with n reports, and run(0) changes nothing. For every n and state, run(n) completes with n reports in the state that n steps of the core give; run(0) leaves the state, and run(m + n) is run(m) then run(n) with the reports in order. The domain of n is D21 of the spec (log 11). Cites: 40_engine_addressing.md section 1 (the step), 92_eei_decisions.md D21. -/
def Obligations.RunIsNStepsWithNReports : Prop :=
  (∀ s : State, run 0 s = .next (s, [])) ∧
  (∀ (n : Nat) (s : State), ∃ (t : State) (reports : List StepReport),
    run n s = .next (t, reports) ∧ reports.length = n ∧ Host.Core.run Sys2Proof.core n s = .next t) ∧
  (∀ (m n : Nat) (s t u : State) (rs qs : List StepReport),
    run m s = .next (t, rs) → run n t = .next (u, qs) → run (m + n) s = .next (u, rs ++ qs))

/-- A byte the host writes is the byte it peeks, and peeking changes nothing. In canonical memory, after the host writes v at an address, peeking that address gives v and any other the byte before; the write also sets last_write and changes nothing else; peeking any address leaves the state, last_read included. These are D11 and D12 of the spec (log 11). Cites: 20_memory.md section 7 (diagnostic address records and host access), 92_eei_decisions.md D11, D12. -/
def Obligations.LoadThenPeek : Prop :=
  (∀ (s : State) (addr b : Addr) (v : Byte), SafeState s →
    ∃ t : State, hostCommand (.write addr v) s = .next (t, .nothing) ∧
      hostCommand (.peek b) t = .next (t, .byte (if b = addr then v else s.mem.read b)) ∧
      t.lastWrite = some addr ∧ { t with mem := s.mem, lastWrite := s.lastWrite } = s) ∧
  (∀ (s : State) (addr : Addr), hostCommand (.peek addr) s = .next (s, .byte (s.mem.read addr)) ∧
    hostCommand .inspectDiagnostics s = .next (s, .diagnostics s.lastRead s.lastWrite))

/-- The step report shows the step taken: opcode, support, address and value. For every state the step command completes with the report of that step: opaddr is PC before it, opcode the byte there, supported true exactly when the byte is in the core set; for a jump the address is the new PC; for a load the value is the byte then in the register; for STA, STX, STY, INC and DEC the address is the one stored to and, in canonical memory, the value the byte then there; for AND the value is the operand byte, the immediate or the byte at the data address, and the new A is the old A AND that value; for the others both are none. The report's form is D14 and D27 of the spec, the reading of value for AND is log 14. Cites: 40_engine_addressing.md section 3 (step report and diagnostics), 92_eei_decisions.md D14, D27. -/
def Obligations.StepReportMatchesTheStep : Prop :=
  ∀ s : State, ∃ (t : State) (r : StepReport), hostCommand .step s = .next (t, .report r) ∧ step s = .next t ∧
    r.opaddr = s.pc ∧ r.opcode = s.mem.read s.pc ∧ r.handler = (fetchInstr s).1.handlerName ∧
    (r.supported = true ↔ s.mem.read s.pc ∈ coreOpcodes) ∧
    ((fetchInstr s).1.mnemonic = "JMP" → r.ea = some t.pc ∧ r.value = none) ∧
    ((fetchInstr s).1.mnemonic ∈ ["LDA", "LDX", "LDY"] →
      r.ea = (fetchInstr s).1.dataReadAddr s ∧ ∃ q : Reg, (fetchInstr s).1.destReg = some q ∧ r.value = some (t.reg q)) ∧
    (∀ addr : Addr, (fetchInstr s).1.storeAddr s = some addr →
      r.ea = some addr ∧ (SafeState s → r.value = some (t.mem.read addr))) ∧
    ((fetchInstr s).1.mnemonic = "AND" →
      r.ea = (fetchInstr s).1.dataReadAddr s ∧ ∃ v : Byte, r.value = some v ∧ t.a = s.a &&& v ∧
        ((fetchInstr s).1 = .andImm v ∨
          ∃ addr : Addr, (fetchInstr s).1.dataReadAddr s = some addr ∧ v = s.mem.read addr)) ∧
    ((fetchInstr s).1.mode = .implied → r.ea = none ∧ r.value = none)
end

