-- ==== Sys2Proof/Laws/Decode.lean ====
section
/-! SUPPORT. The laws of the dispatch table: the operand bytes never change which handler is selected, so the length depends on the opcode alone (30_encoding.md R60, R69). -/

namespace Sys2Proof

/-- The bytes of a word assembled from two bytes, and a word reassembled from its bytes (30_encoding.md R64). -/
@[simp] theorem lowByte_wordOf (hh ll : Byte) : lowByte (wordOf hh ll) = ll := by
  apply BitVec.eq_of_getLsbD_eq
  intro k hk
  simp [lowByte, wordOf, hk, (by omega : k < 16)]

@[simp] theorem highByte_wordOf (hh ll : Byte) : highByte (wordOf hh ll) = hh := by
  apply BitVec.eq_of_getLsbD_eq
  intro k hk
  simp [highByte, wordOf, hk, (by omega : 8 + k < 16)]

@[simp] theorem wordOf_bytes (w : Addr) : wordOf (highByte w) (lowByte w) = w := by
  apply BitVec.eq_of_getLsbD_eq
  intro k hk
  by_cases h : k < 8
  · simp [highByte, lowByte, wordOf, h, hk]
  · simp [highByte, lowByte, wordOf, h, hk, (by omega : k - 8 < 8), (by omega : 8 + (k - 8) = k)]

/-- The length of the selected instruction does not depend on the operand bytes. -/
theorem dispatch_length (op b1 b2 : Byte) : (dispatch op b1 b2).length = lengthOf op := by
  unfold lengthOf dispatch
  split <;> rfl

/-- A one-byte format looks at no operand byte. -/
theorem dispatch_of_length_one {op : Byte} (h : lengthOf op = 1) (b1 b2 : Byte) :
    dispatch op b1 b2 = dispatch op 0 0 := by
  revert h
  unfold lengthOf dispatch
  split <;> first | (intro h; rfl) | (intro h; cases h)

/-- A two-byte format looks at the first operand byte only. -/
theorem dispatch_of_length_two {op : Byte} (h : lengthOf op = 2) (b1 b2 : Byte) :
    dispatch op b1 b2 = dispatch op b1 0 := by
  revert h
  unfold lengthOf dispatch
  split <;> first | (intro h; rfl) | (intro h; cases h)

/-- There are three lengths. -/
theorem lengthOf_cases (op : Byte) : lengthOf op = 1 ∨ lengthOf op = 2 ∨ lengthOf op = 3 := by
  unfold lengthOf Instr.length
  cases (dispatch op 0 0).mode <;> simp [AddrMode.length]

/-- An opcode byte outside the core set selects the unsupported handler (30_encoding.md R67). -/
theorem dispatch_unsupported {op : Byte} (h : (Instr.unsupported op).wf = true) (b1 b2 : Byte) :
    dispatch op b1 b2 = .unsupported op := by
  unfold dispatch
  split <;> first | rfl | (exact absurd h (by decide))

/-- An opcode byte outside the core set begins an instruction of one byte (30_encoding.md R60, R67). -/
theorem lengthOf_unsupported {op : Byte} (h : (Instr.unsupported op).wf = true) : lengthOf op = 1 := by
  unfold lengthOf
  rw [dispatch_unsupported h]
  rfl

end Sys2Proof
end

