-- ==== Sys2Proof/Laws/State.lean ====
section
/-! SUPPORT. One lemma per field per update of State, each true by unfolding that update, so that no later proof unfolds one. -/

namespace Sys2Proof.Machine

section Updates

variable (s : State) (r : Reg) (v mask : Byte) (addr : Addr) (b : Bool) (n : Nat)

-- `setReg`: the named register, and every other field
@[simp] theorem setReg_a_a : (s.setReg .a v).a = v := rfl
@[simp] theorem setReg_x_x : (s.setReg .x v).x = v := rfl
@[simp] theorem setReg_y_y : (s.setReg .y v).y = v := rfl
@[simp] theorem setReg_sp_sp : (s.setReg .sp v).sp = v := rfl
@[simp] theorem setReg_a_x : (s.setReg .a v).x = s.x := rfl
@[simp] theorem setReg_a_y : (s.setReg .a v).y = s.y := rfl
@[simp] theorem setReg_a_sp : (s.setReg .a v).sp = s.sp := rfl
@[simp] theorem setReg_x_a : (s.setReg .x v).a = s.a := rfl
@[simp] theorem setReg_x_y : (s.setReg .x v).y = s.y := rfl
@[simp] theorem setReg_x_sp : (s.setReg .x v).sp = s.sp := rfl
@[simp] theorem setReg_y_a : (s.setReg .y v).a = s.a := rfl
@[simp] theorem setReg_y_x : (s.setReg .y v).x = s.x := rfl
@[simp] theorem setReg_y_sp : (s.setReg .y v).sp = s.sp := rfl
@[simp] theorem setReg_sp_a : (s.setReg .sp v).a = s.a := rfl
@[simp] theorem setReg_sp_x : (s.setReg .sp v).x = s.x := rfl
@[simp] theorem setReg_sp_y : (s.setReg .sp v).y = s.y := rfl
@[simp] theorem setReg_pc : (s.setReg r v).pc = s.pc := by cases r <;> rfl
@[simp] theorem setReg_p : (s.setReg r v).p = s.p := by cases r <;> rfl
@[simp] theorem setReg_mem : (s.setReg r v).mem = s.mem := by cases r <;> rfl
@[simp] theorem setReg_lastRead : (s.setReg r v).lastRead = s.lastRead := by cases r <;> rfl
@[simp] theorem setReg_lastWrite : (s.setReg r v).lastWrite = s.lastWrite := by cases r <;> rfl
@[simp] theorem reg_a : s.reg .a = s.a := rfl
@[simp] theorem reg_x : s.reg .x = s.x := rfl
@[simp] theorem reg_y : s.reg .y = s.y := rfl
@[simp] theorem reg_sp : s.reg .sp = s.sp := rfl

-- `setPc`
@[simp] theorem setPc_pc : (s.setPc addr).pc = addr := rfl
@[simp] theorem setPc_sp : (s.setPc addr).sp = s.sp := rfl
@[simp] theorem setPc_a : (s.setPc addr).a = s.a := rfl
@[simp] theorem setPc_x : (s.setPc addr).x = s.x := rfl
@[simp] theorem setPc_y : (s.setPc addr).y = s.y := rfl
@[simp] theorem setPc_p : (s.setPc addr).p = s.p := rfl
@[simp] theorem setPc_mem : (s.setPc addr).mem = s.mem := rfl
@[simp] theorem setPc_lastRead : (s.setPc addr).lastRead = s.lastRead := rfl
@[simp] theorem setPc_lastWrite : (s.setPc addr).lastWrite = s.lastWrite := rfl

-- `memRead`, its state part: only `last_read` changes (20_memory.md R41)`
@[simp] theorem memRead_state_pc : ((memRead s addr).2).pc = s.pc := rfl
@[simp] theorem memRead_state_sp : ((memRead s addr).2).sp = s.sp := rfl
@[simp] theorem memRead_state_a : ((memRead s addr).2).a = s.a := rfl
@[simp] theorem memRead_state_x : ((memRead s addr).2).x = s.x := rfl
@[simp] theorem memRead_state_y : ((memRead s addr).2).y = s.y := rfl
@[simp] theorem memRead_state_p : ((memRead s addr).2).p = s.p := rfl
@[simp] theorem memRead_state_mem : ((memRead s addr).2).mem = s.mem := rfl
@[simp] theorem memRead_state_lastRead : ((memRead s addr).2).lastRead = some addr := rfl
@[simp] theorem memRead_state_lastWrite : ((memRead s addr).2).lastWrite = s.lastWrite := rfl
@[simp] theorem memRead_value : (memRead s addr).1 = s.mem.read addr := rfl

-- `memWrite`: memory and `last_write` change (20_memory.md R42)`
@[simp] theorem memWrite_pc : (memWrite s addr v).pc = s.pc := rfl
@[simp] theorem memWrite_sp : (memWrite s addr v).sp = s.sp := rfl
@[simp] theorem memWrite_a : (memWrite s addr v).a = s.a := rfl
@[simp] theorem memWrite_x : (memWrite s addr v).x = s.x := rfl
@[simp] theorem memWrite_y : (memWrite s addr v).y = s.y := rfl
@[simp] theorem memWrite_p : (memWrite s addr v).p = s.p := rfl
@[simp] theorem memWrite_mem : (memWrite s addr v).mem = s.mem.write addr v := rfl
@[simp] theorem memWrite_lastRead : (memWrite s addr v).lastRead = s.lastRead := rfl
@[simp] theorem memWrite_lastWrite : (memWrite s addr v).lastWrite = some addr := rfl

-- `setFlags`
@[simp] theorem setFlags_pc : (s.setFlags mask).pc = s.pc := rfl
@[simp] theorem setFlags_sp : (s.setFlags mask).sp = s.sp := rfl
@[simp] theorem setFlags_a : (s.setFlags mask).a = s.a := rfl
@[simp] theorem setFlags_x : (s.setFlags mask).x = s.x := rfl
@[simp] theorem setFlags_y : (s.setFlags mask).y = s.y := rfl
@[simp] theorem setFlags_p : (s.setFlags mask).p = s.p ||| mask := rfl
@[simp] theorem setFlags_mem : (s.setFlags mask).mem = s.mem := rfl
@[simp] theorem setFlags_lastRead : (s.setFlags mask).lastRead = s.lastRead := rfl
@[simp] theorem setFlags_lastWrite : (s.setFlags mask).lastWrite = s.lastWrite := rfl

-- `clearFlags`
@[simp] theorem clearFlags_pc : (s.clearFlags mask).pc = s.pc := rfl
@[simp] theorem clearFlags_sp : (s.clearFlags mask).sp = s.sp := rfl
@[simp] theorem clearFlags_a : (s.clearFlags mask).a = s.a := rfl
@[simp] theorem clearFlags_x : (s.clearFlags mask).x = s.x := rfl
@[simp] theorem clearFlags_y : (s.clearFlags mask).y = s.y := rfl
@[simp] theorem clearFlags_p : (s.clearFlags mask).p = s.p &&& ~~~mask := rfl
@[simp] theorem clearFlags_mem : (s.clearFlags mask).mem = s.mem := rfl
@[simp] theorem clearFlags_lastRead : (s.clearFlags mask).lastRead = s.lastRead := rfl
@[simp] theorem clearFlags_lastWrite : (s.clearFlags mask).lastWrite = s.lastWrite := rfl

-- `putFlag`
@[simp] theorem putFlag_p : (s.putFlag mask b).p = if b then s.p ||| mask else s.p &&& ~~~mask := by cases b <;> rfl
@[simp] theorem putFlag_pc : (s.putFlag mask b).pc = s.pc := by cases b <;> rfl
@[simp] theorem putFlag_sp : (s.putFlag mask b).sp = s.sp := by cases b <;> rfl
@[simp] theorem putFlag_a : (s.putFlag mask b).a = s.a := by cases b <;> rfl
@[simp] theorem putFlag_x : (s.putFlag mask b).x = s.x := by cases b <;> rfl
@[simp] theorem putFlag_y : (s.putFlag mask b).y = s.y := by cases b <;> rfl
@[simp] theorem putFlag_mem : (s.putFlag mask b).mem = s.mem := by cases b <;> rfl
@[simp] theorem putFlag_lastRead : (s.putFlag mask b).lastRead = s.lastRead := by cases b <;> rfl
@[simp] theorem putFlag_lastWrite : (s.putFlag mask b).lastWrite = s.lastWrite := by cases b <;> rfl

-- `setZN`: every field but P
@[simp] theorem setZN_pc : (s.setZN v).pc = s.pc := by simp [State.setZN]
@[simp] theorem setZN_sp : (s.setZN v).sp = s.sp := by simp [State.setZN]
@[simp] theorem setZN_a : (s.setZN v).a = s.a := by simp [State.setZN]
@[simp] theorem setZN_x : (s.setZN v).x = s.x := by simp [State.setZN]
@[simp] theorem setZN_y : (s.setZN v).y = s.y := by simp [State.setZN]
@[simp] theorem setZN_mem : (s.setZN v).mem = s.mem := by simp [State.setZN]
@[simp] theorem setZN_lastRead : (s.setZN v).lastRead = s.lastRead := by simp [State.setZN]
@[simp] theorem setZN_lastWrite : (s.setZN v).lastWrite = s.lastWrite := by simp [State.setZN]

-- `afterFetch`
@[simp] theorem afterFetch_pc : (afterFetch n s).pc = s.pc + BitVec.ofNat 16 n := rfl
@[simp] theorem afterFetch_sp : (afterFetch n s).sp = s.sp := rfl
@[simp] theorem afterFetch_a : (afterFetch n s).a = s.a := rfl
@[simp] theorem afterFetch_x : (afterFetch n s).x = s.x := rfl
@[simp] theorem afterFetch_y : (afterFetch n s).y = s.y := rfl
@[simp] theorem afterFetch_p : (afterFetch n s).p = s.p := rfl
@[simp] theorem afterFetch_mem : (afterFetch n s).mem = s.mem := rfl
@[simp] theorem afterFetch_lastRead : (afterFetch n s).lastRead = some (s.pc + BitVec.ofNat 16 (n - 1)) := rfl
@[simp] theorem afterFetch_lastWrite : (afterFetch n s).lastWrite = s.lastWrite := rfl

-- `hostReset`
@[simp] theorem hostReset_pc : (hostReset s).pc = 0 := rfl
@[simp] theorem hostReset_sp : (hostReset s).sp = 0 := rfl
@[simp] theorem hostReset_a : (hostReset s).a = 0 := rfl
@[simp] theorem hostReset_x : (hostReset s).x = 0 := rfl
@[simp] theorem hostReset_y : (hostReset s).y = 0 := rfl
@[simp] theorem hostReset_p : (hostReset s).p = 0 := rfl
@[simp] theorem hostReset_mem : (hostReset s).mem = s.mem := rfl
@[simp] theorem hostReset_lastRead : (hostReset s).lastRead = s.lastRead := rfl
@[simp] theorem hostReset_lastWrite : (hostReset s).lastWrite = s.lastWrite := rfl

-- `hostWrite`
@[simp] theorem hostWrite_pc : (hostWrite addr v s).pc = s.pc := rfl
@[simp] theorem hostWrite_sp : (hostWrite addr v s).sp = s.sp := rfl
@[simp] theorem hostWrite_a : (hostWrite addr v s).a = s.a := rfl
@[simp] theorem hostWrite_x : (hostWrite addr v s).x = s.x := rfl
@[simp] theorem hostWrite_y : (hostWrite addr v s).y = s.y := rfl
@[simp] theorem hostWrite_p : (hostWrite addr v s).p = s.p := rfl
@[simp] theorem hostWrite_mem : (hostWrite addr v s).mem = s.mem.write addr v := rfl
@[simp] theorem hostWrite_lastRead : (hostWrite addr v s).lastRead = s.lastRead := rfl
@[simp] theorem hostWrite_lastWrite : (hostWrite addr v s).lastWrite = some addr := rfl

-- `powerUp`
@[simp] theorem powerUp_pc (mem0 : Config.LaunchImage) : (State.powerUp mem0).pc = 0 := rfl
@[simp] theorem powerUp_sp (mem0 : Config.LaunchImage) : (State.powerUp mem0).sp = 0 := rfl
@[simp] theorem powerUp_a (mem0 : Config.LaunchImage) : (State.powerUp mem0).a = 0 := rfl
@[simp] theorem powerUp_x (mem0 : Config.LaunchImage) : (State.powerUp mem0).x = 0 := rfl
@[simp] theorem powerUp_y (mem0 : Config.LaunchImage) : (State.powerUp mem0).y = 0 := rfl
@[simp] theorem powerUp_p (mem0 : Config.LaunchImage) : (State.powerUp mem0).p = 0 := rfl
@[simp] theorem powerUp_mem (mem0 : Config.LaunchImage) : (State.powerUp mem0).mem = Memory.ofImage mem0 := by
  simp only [State.powerUp]
@[simp] theorem powerUp_lastRead (mem0 : Config.LaunchImage) : (State.powerUp mem0).lastRead = none := rfl
@[simp] theorem powerUp_lastWrite (mem0 : Config.LaunchImage) : (State.powerUp mem0).lastWrite = none := rfl

end Updates

/-- Reading a register after writing one. -/
theorem reg_setReg (s : State) (r q : Reg) (v : Byte) :
    (s.setReg r v).reg q = if r = q then v else s.reg q := by
  cases r <;> cases q <;> rfl

/-- Registers are not touched by the flag, PC and memory operations. -/
theorem reg_eq_of_fields {s t : State} (ha : t.a = s.a) (hx : t.x = s.x) (hy : t.y = s.y) (hsp : t.sp = s.sp)
    (q : Reg) : t.reg q = s.reg q := by
  cases q <;> simp [*]

@[simp] theorem reg_setZN (s : State) (v : Byte) (q : Reg) : (s.setZN v).reg q = s.reg q :=
  reg_eq_of_fields (by simp) (by simp) (by simp) (by simp) q

@[simp] theorem reg_memWrite (s : State) (addr : Addr) (v : Byte) (q : Reg) : (memWrite s addr v).reg q = s.reg q :=
  reg_eq_of_fields rfl rfl rfl rfl q

@[simp] theorem reg_memRead (s : State) (addr : Addr) (q : Reg) : (memRead s addr).2.reg q = s.reg q :=
  reg_eq_of_fields rfl rfl rfl rfl q

/-- Two states are equal when their fields are. -/
theorem State.eq_of_fields {s t : State} (hpc : s.pc = t.pc) (hsp : s.sp = t.sp) (ha : s.a = t.a) (hx : s.x = t.x)
    (hy : s.y = t.y) (hp : s.p = t.p) (hmem : s.mem = t.mem) (hr : s.lastRead = t.lastRead)
    (hw : s.lastWrite = t.lastWrite) : s = t := by
  cases s; cases t; simp_all

end Sys2Proof.Machine
end

