-- ==== Sys2Proof/Laws/Flags.lean ====
section
/-! SUPPORT. What `SetZN` leaves in P, as one formula over the old P and the result byte (10_state.md R36). -/

namespace Sys2Proof.Machine

/-- Bit 7 of a byte, masked out, is its sign bit in place. -/
theorem and_maskN (v : Byte) : v &&& maskN = if v.msb then maskN else 0 := by
  revert v; decide

/-- Setting or clearing Zero then Negative is clearing both and setting the new ones. -/
theorem setZN_p (s : State) (v : Byte) :
    (s.setZN v).p = (s.p &&& 0x7D) ||| (if v = 0 then maskZ else 0) ||| (v &&& maskN) := by
  have combine : ∀ (p : Byte) (z n : Bool),
      (if n then (if z then p ||| maskZ else p &&& ~~~maskZ) ||| maskN
        else (if z then p ||| maskZ else p &&& ~~~maskZ) &&& ~~~maskN) =
      (p &&& 0x7D) ||| (if z then maskZ else 0) ||| (if n then maskN else 0) := by decide
  rw [and_maskN]
  simpa [State.setZN] using combine s.p (v == 0) v.msb

end Sys2Proof.Machine
end

