-- ==== Sys2Proof/Laws/Memory.lean ====
section
/-! SUPPORT. The laws of memory: what a read gives after a write, and that every operation keeps the canonical form. -/

namespace Sys2Proof.Machine

/-- A byte not listed reads as the unlisted byte. -/
theorem Memory.lookup_of_forall_ne {k : Nat} {m : Memory} (h : ∀ c ∈ m, c.1 ≠ k) :
    Memory.lookup k m = Memory.unlisted := by
  induction m with
  | nil => rfl
  | cons c rest ih =>
    obtain ⟨hc, hrest⟩ := List.forall_mem_cons.1 h
    simp [Memory.lookup, hc, ih hrest]

/-- A write changes no other byte, whatever the list. -/
theorem Memory.lookup_insert_other {k j : Nat} (h : k ≠ j) (v : Byte) (m : Memory) :
    Memory.lookup j (Memory.insert k v m) = Memory.lookup j m := by
  have cons : ∀ n : Memory, Memory.lookup j (Memory.consCell k v n) = Memory.lookup j n := by
    intro n
    unfold Memory.consCell
    split <;> simp [Memory.lookup, h]
  induction m with
  | nil => exact cons []
  | cons c rest ih =>
    simp only [Memory.insert]
    split
    · exact cons _
    · split
      · next hk => rw [cons]; simp [Memory.lookup, ← hk, h]
      · simp [Memory.lookup, ih]

/-- A read of the byte written gives the value, in a canonical memory. -/
theorem Memory.lookup_insert_same {k : Nat} (v : Byte) {m : Memory} (h : m.Pairwise (fun c d => c.1 < d.1)) :
    Memory.lookup k (Memory.insert k v m) = v := by
  have cons : ∀ n : Memory, (∀ c ∈ n, c.1 ≠ k) → Memory.lookup k (Memory.consCell k v n) = v := by
    intro n hn
    unfold Memory.consCell
    split
    · next hv => rw [Memory.lookup_of_forall_ne hn, hv]
    · simp [Memory.lookup]
  induction m with
  | nil => exact cons [] (by simp)
  | cons c rest ih =>
    obtain ⟨hlt, hrest⟩ := List.pairwise_cons.1 h
    simp only [Memory.insert]
    split
    · next hk =>
      refine cons _ fun d hd => ?_
      rcases List.mem_cons.1 hd with rfl | hd
      · omega
      · have := hlt d hd; omega
    · split
      · next hk => exact cons _ fun d hd => by have := hlt d hd; omega
      · next hk => simp [Memory.lookup, Ne.symm hk, ih hrest]

/-- Every cell of a memory after a write is the cell written or one that was there. -/
theorem Memory.mem_insert {k : Nat} {v : Byte} {m : Memory} {c : Host.Cell} (h : c ∈ Memory.insert k v m) :
    (c = (k, v) ∧ v ≠ Memory.unlisted) ∨ c ∈ m := by
  have cons : ∀ n : Memory, c ∈ Memory.consCell k v n → (c = (k, v) ∧ v ≠ Memory.unlisted) ∨ c ∈ n := by
    intro n hn
    unfold Memory.consCell at hn
    split at hn
    · exact .inr hn
    · next hv => exact (List.mem_cons.1 hn).imp (fun e => ⟨e, hv⟩) id
  induction m with
  | nil => exact cons [] h
  | cons d rest ih =>
    simp only [Memory.insert] at h
    split at h
    · exact cons _ h
    · split at h
      · exact (cons _ h).imp id (List.mem_cons_of_mem _)
      · rcases List.mem_cons.1 h with rfl | h
        · exact .inr List.mem_cons_self
        · exact (ih h).imp id (List.mem_cons_of_mem _)

/-- A write keeps the addresses strictly rising. -/
theorem Memory.pairwise_insert (k : Nat) (v : Byte) {m : Memory} (h : m.Pairwise (fun c d => c.1 < d.1)) :
    (Memory.insert k v m).Pairwise (fun c d => c.1 < d.1) := by
  have cons : ∀ n : Memory, n.Pairwise (fun c d => c.1 < d.1) → (∀ d ∈ n, k < d.1) →
      (Memory.consCell k v n).Pairwise (fun c d => c.1 < d.1) := by
    intro n hn hk
    unfold Memory.consCell
    split
    · exact hn
    · exact List.pairwise_cons.2 ⟨hk, hn⟩
  induction m with
  | nil => exact cons [] .nil (by simp)
  | cons c rest ih =>
    obtain ⟨hlt, hrest⟩ := List.pairwise_cons.1 h
    simp only [Memory.insert]
    split
    · next hk =>
      refine cons _ h fun d hd => ?_
      rcases List.mem_cons.1 hd with rfl | hd
      · exact hk
      · have := hlt d hd; omega
    · split
      · next hk => exact cons _ hrest fun d hd => by have := hlt d hd; omega
      · refine List.pairwise_cons.2 ⟨fun d hd => ?_, ih hrest⟩
        rcases Memory.mem_insert hd with ⟨rfl, -⟩ | hd
        · simp only; omega
        · exact hlt d hd

/-- What the canonical form says. -/
theorem Memory.wf_iff {m : Memory} :
    m.wf ↔ m.Pairwise (fun c d => c.1 < d.1) ∧ ∀ c ∈ m, c.1 < Config.memorySize ∧ c.2 ≠ Memory.unlisted := by
  simp only [Memory.wf, decide_eq_true_eq]

/-- A write keeps the canonical form. -/
theorem Memory.wf_write {m : Memory} (h : m.wf) (addr : Addr) (v : Byte) : (m.write addr v).wf := by
  rw [Memory.wf_iff] at h ⊢
  refine ⟨Memory.pairwise_insert _ _ h.1, fun c hc => ?_⟩
  rcases Memory.mem_insert hc with ⟨rfl, hv⟩ | hc
  · exact ⟨addr.isLt, hv⟩
  · exact h.2 c hc

/-- A read after a write to the same address gives the byte written. -/
theorem Memory.read_write_same {m : Memory} (h : m.wf) (addr : Addr) (v : Byte) :
    (m.write addr v).read addr = v :=
  Memory.lookup_insert_same v (Memory.wf_iff.1 h).1

/-- A write leaves every other address alone. -/
theorem Memory.read_write_other (m : Memory) {addr b : Addr} (h : addr ≠ b) (v : Byte) :
    (m.write addr v).read b = m.read b :=
  Memory.lookup_insert_other (fun e => h (BitVec.eq_of_toNat_eq e)) v m

/-- A write of several bytes keeps the canonical form. -/
theorem Memory.wf_writeBytes {m : Memory} (h : m.wf) (addr : Addr) (bs : List Byte) : (m.writeBytes addr bs).wf := by
  induction bs generalizing m addr with
  | nil => exact h
  | cons b bs ih => exact ih (Memory.wf_write h addr b) (addr + 1)

/-- The empty memory, which reset leaves, has the canonical form. -/
theorem Memory.wf_nil : Memory.wf [] := rfl

/-- The memory of a launch image has the canonical form. -/
theorem Memory.wf_ofImage (mem0 : Config.LaunchImage) : (Memory.ofImage mem0).wf := by
  rw [Memory.wf_iff]
  constructor
  · refine List.Pairwise.filterMap (R := (· < ·)) _ (fun k k' hk c hc d hd => ?_) List.pairwise_lt_range
    simp only [Option.ite_none_left_eq_some, Option.some.injEq] at hc hd
    rw [← hc.2, ← hd.2]
    exact hk
  · intro c hc
    obtain ⟨k, hk, hc⟩ := List.mem_filterMap.1 hc
    simp only [Option.ite_none_left_eq_some, Option.some.injEq] at hc
    obtain ⟨hv, rfl⟩ := hc
    exact ⟨List.mem_range.1 hk, hv⟩

end Sys2Proof.Machine
end

