-- ==== Sys2Proof/Laws/Ops.lean ====
section
/-! SUPPORT. One lemma per shared operation that says everything it does, for later proofs to cite instead of unfolding it. -/

namespace Sys2Proof.Machine

variable (s : State)

/-- Everything `FetchByte` does (40_engine_addressing.md R83). -/
theorem fetchByte_eq : fetchByte s = (s.mem.read s.pc, { s with pc := s.pc + 1, lastRead := some s.pc }) := rfl

/-- Everything `FetchWord` does (40_engine_addressing.md R84). -/
theorem fetchWord_eq : fetchWord s =
    (wordOf (s.mem.read (s.pc + 1)) (s.mem.read s.pc),
      { s with pc := s.pc + 1 + 1, lastRead := some (s.pc + 1) }) := rfl

/-- The fetch leaves PC past the instruction and `last_read` at its last byte, and changes nothing else. -/
theorem fetchInstr_state : (fetchInstr s).2 = afterFetch (lengthOf (s.mem.read s.pc)) s := by
  simp only [fetchInstr, fetchByte_eq]
  rcases lengthOf_cases (s.mem.read s.pc) with h | h | h <;>
    simp [h, afterFetch, BitVec.add_assoc]

/-- The fetch gives the instruction that the dispatch table selects for the bytes at PC. -/
theorem fetchInstr_instr : (fetchInstr s).1 =
    dispatch (s.mem.read s.pc) (s.mem.read (s.pc + 1)) (s.mem.read (s.pc + 2)) := by
  simp only [fetchInstr, fetchByte_eq]
  rcases lengthOf_cases (s.mem.read s.pc) with h | h | h
  · rw [dispatch_of_length_one h (s.mem.read (s.pc + 1)) (s.mem.read (s.pc + 2))]; simp [h]
  · rw [dispatch_of_length_two h (s.mem.read (s.pc + 1)) (s.mem.read (s.pc + 2))]; simp [h]
  · simp [h, BitVec.add_assoc]

/-- The step is the meaning of the fetched instruction on the state after the fetch. -/
theorem step_eq : step s = exec (fetchInstr s).1 (fetchInstr s).2 := rfl

/-- Everything a result write does. -/
theorem result_eq (r : Reg) (v : Byte) : result r v s = (s.setReg r v).setZN v := rfl

/-- Everything a load does. -/
theorem load_eq (r : Reg) (ea : Addr) : load r ea s =
    result r (s.mem.read ea) { s with lastRead := some ea } := rfl

/-- Everything a store does. -/
theorem store_eq (r : Reg) (ea : Addr) : store r ea s =
    { s with mem := s.mem.write ea (s.reg r), lastWrite := some ea } := rfl

/-- Everything a read-modify-write does. -/
theorem modifyMem_eq (f : Byte → Byte) (ea : Addr) : modifyMem f ea s =
    ({ s with mem := s.mem.write ea (f (s.mem.read ea)), lastRead := some ea, lastWrite := some ea } : State).setZN
      (f (s.mem.read ea)) := rfl

/-- Everything a register increment or decrement does. -/
theorem modifyReg_eq (f : Byte → Byte) (r : Reg) : modifyReg f r s = result r (f (s.reg r)) s := rfl

/-- Everything the AND of a memory byte does. -/
theorem andMem_eq (ea : Addr) : andMem ea s =
    result .a (s.a &&& s.mem.read ea) { s with lastRead := some ea } := rfl

/-- Everything the Indirect mode does (40_engine_addressing.md R93). -/
theorem eaInd_eq (ptr : Addr) : eaInd ptr s =
    (wordOf (s.mem.read (ptr + 1)) (s.mem.read ptr), { s with lastRead := some (ptr + 1) }) := rfl

/-- The registers after a result write: the destination holds the result, the others are as before. -/
theorem result_reg (r q : Reg) (v : Byte) : (result r v s).reg q = if r = q then v else s.reg q := by
  rw [result_eq, reg_setZN, reg_setReg]

/-- A result write touches neither PC nor memory nor the diagnostic records. -/
theorem result_frame (r : Reg) (v : Byte) :
    (result r v s).pc = s.pc ∧ (result r v s).mem = s.mem ∧ (result r v s).lastRead = s.lastRead ∧
      (result r v s).lastWrite = s.lastWrite := by
  simp [result_eq]

/-- P after a result write (10_state.md R36). -/
theorem result_p (r : Reg) (v : Byte) :
    (result r v s).p = (s.p &&& 0x7D) ||| (if v = 0 then maskZ else 0) ||| (v &&& maskN) := by
  rw [result_eq, setZN_p, setReg_p]

/-- Every shared operation leaves memory canonical if it was. -/
theorem wf_memWrite {s : State} (h : s.mem.wf) (addr : Addr) (v : Byte) : (memWrite s addr v).mem.wf :=
  Memory.wf_write h addr v

theorem wf_store {s : State} (h : s.mem.wf) (r : Reg) (ea : Addr) : (store r ea s).mem.wf :=
  Memory.wf_write h ea _

theorem wf_modifyMem {s : State} (h : s.mem.wf) (f : Byte → Byte) (ea : Addr) : (modifyMem f ea s).mem.wf := by
  rw [modifyMem_eq, setZN_mem]
  exact Memory.wf_write h ea _

theorem wf_result {s : State} (h : s.mem.wf) (r : Reg) (v : Byte) : (result r v s).mem.wf := by
  rw [(result_frame s r v).2.1]
  exact h

/-- Storing an instruction word keeps memory canonical. -/
theorem wf_withFetchWord {s : State} (h : s.mem.wf) (nbits w : Nat) : (s.withFetchWord nbits w).mem.wf :=
  Memory.wf_writeBytes h _ _

/-- Reset and power-up leave memory canonical. -/
theorem wf_reset : State.reset.mem.wf := Memory.wf_nil

theorem wf_powerUp (mem0 : Config.LaunchImage) : (State.powerUp mem0).mem.wf := by
  rw [powerUp_mem]
  exact Memory.wf_ofImage mem0

end Sys2Proof.Machine
end

