-- ==== Sys2Proof/Laws/PerInstr.lean ====
section
/-! SUPPORT. The statements made per instruction, one lemma per constructor. -/

namespace Sys2Proof.Laws

/-- The encoding of an instruction has the length its mode gives it, and the opcode byte alone tells that length (30_encoding.md R60, R61). -/
def EncodedLength.Statement (i : Instr) : Prop :=
  i.wf = true → (encode i).length = i.length ∧ lengthOf i.opcode = i.length

theorem EncodedLength.ldaImm (v : Byte) : EncodedLength.Statement (.ldaImm v) := fun _ => ⟨rfl, rfl⟩
theorem EncodedLength.ldaZp (nn : Byte) : EncodedLength.Statement (.ldaZp nn) := fun _ => ⟨rfl, rfl⟩
theorem EncodedLength.ldaZpX (nn : Byte) : EncodedLength.Statement (.ldaZpX nn) := fun _ => ⟨rfl, rfl⟩
theorem EncodedLength.ldaAbs (w : Addr) : EncodedLength.Statement (.ldaAbs w) := fun _ => ⟨rfl, rfl⟩
theorem EncodedLength.ldaAbsX (w : Addr) : EncodedLength.Statement (.ldaAbsX w) := fun _ => ⟨rfl, rfl⟩
theorem EncodedLength.ldaAbsY (w : Addr) : EncodedLength.Statement (.ldaAbsY w) := fun _ => ⟨rfl, rfl⟩
theorem EncodedLength.ldxImm (v : Byte) : EncodedLength.Statement (.ldxImm v) := fun _ => ⟨rfl, rfl⟩
theorem EncodedLength.ldxZp (nn : Byte) : EncodedLength.Statement (.ldxZp nn) := fun _ => ⟨rfl, rfl⟩
theorem EncodedLength.ldxZpY (nn : Byte) : EncodedLength.Statement (.ldxZpY nn) := fun _ => ⟨rfl, rfl⟩
theorem EncodedLength.ldxAbs (w : Addr) : EncodedLength.Statement (.ldxAbs w) := fun _ => ⟨rfl, rfl⟩
theorem EncodedLength.ldxAbsY (w : Addr) : EncodedLength.Statement (.ldxAbsY w) := fun _ => ⟨rfl, rfl⟩
theorem EncodedLength.ldyImm (v : Byte) : EncodedLength.Statement (.ldyImm v) := fun _ => ⟨rfl, rfl⟩
theorem EncodedLength.ldyZp (nn : Byte) : EncodedLength.Statement (.ldyZp nn) := fun _ => ⟨rfl, rfl⟩
theorem EncodedLength.ldyZpX (nn : Byte) : EncodedLength.Statement (.ldyZpX nn) := fun _ => ⟨rfl, rfl⟩
theorem EncodedLength.ldyAbs (w : Addr) : EncodedLength.Statement (.ldyAbs w) := fun _ => ⟨rfl, rfl⟩
theorem EncodedLength.ldyAbsX (w : Addr) : EncodedLength.Statement (.ldyAbsX w) := fun _ => ⟨rfl, rfl⟩
theorem EncodedLength.staZp (nn : Byte) : EncodedLength.Statement (.staZp nn) := fun _ => ⟨rfl, rfl⟩
theorem EncodedLength.staZpX (nn : Byte) : EncodedLength.Statement (.staZpX nn) := fun _ => ⟨rfl, rfl⟩
theorem EncodedLength.staAbs (w : Addr) : EncodedLength.Statement (.staAbs w) := fun _ => ⟨rfl, rfl⟩
theorem EncodedLength.staAbsX (w : Addr) : EncodedLength.Statement (.staAbsX w) := fun _ => ⟨rfl, rfl⟩
theorem EncodedLength.staAbsY (w : Addr) : EncodedLength.Statement (.staAbsY w) := fun _ => ⟨rfl, rfl⟩
theorem EncodedLength.stxZp (nn : Byte) : EncodedLength.Statement (.stxZp nn) := fun _ => ⟨rfl, rfl⟩
theorem EncodedLength.stxZpY (nn : Byte) : EncodedLength.Statement (.stxZpY nn) := fun _ => ⟨rfl, rfl⟩
theorem EncodedLength.stxAbs (w : Addr) : EncodedLength.Statement (.stxAbs w) := fun _ => ⟨rfl, rfl⟩
theorem EncodedLength.styZp (nn : Byte) : EncodedLength.Statement (.styZp nn) := fun _ => ⟨rfl, rfl⟩
theorem EncodedLength.styZpX (nn : Byte) : EncodedLength.Statement (.styZpX nn) := fun _ => ⟨rfl, rfl⟩
theorem EncodedLength.styAbs (w : Addr) : EncodedLength.Statement (.styAbs w) := fun _ => ⟨rfl, rfl⟩
theorem EncodedLength.tax : EncodedLength.Statement (.tax) := fun _ => ⟨rfl, rfl⟩
theorem EncodedLength.tay : EncodedLength.Statement (.tay) := fun _ => ⟨rfl, rfl⟩
theorem EncodedLength.txa : EncodedLength.Statement (.txa) := fun _ => ⟨rfl, rfl⟩
theorem EncodedLength.tya : EncodedLength.Statement (.tya) := fun _ => ⟨rfl, rfl⟩
theorem EncodedLength.tsx : EncodedLength.Statement (.tsx) := fun _ => ⟨rfl, rfl⟩
theorem EncodedLength.txs : EncodedLength.Statement (.txs) := fun _ => ⟨rfl, rfl⟩
theorem EncodedLength.incZp (nn : Byte) : EncodedLength.Statement (.incZp nn) := fun _ => ⟨rfl, rfl⟩
theorem EncodedLength.incZpX (nn : Byte) : EncodedLength.Statement (.incZpX nn) := fun _ => ⟨rfl, rfl⟩
theorem EncodedLength.incAbs (w : Addr) : EncodedLength.Statement (.incAbs w) := fun _ => ⟨rfl, rfl⟩
theorem EncodedLength.incAbsX (w : Addr) : EncodedLength.Statement (.incAbsX w) := fun _ => ⟨rfl, rfl⟩
theorem EncodedLength.decZp (nn : Byte) : EncodedLength.Statement (.decZp nn) := fun _ => ⟨rfl, rfl⟩
theorem EncodedLength.decZpX (nn : Byte) : EncodedLength.Statement (.decZpX nn) := fun _ => ⟨rfl, rfl⟩
theorem EncodedLength.decAbs (w : Addr) : EncodedLength.Statement (.decAbs w) := fun _ => ⟨rfl, rfl⟩
theorem EncodedLength.decAbsX (w : Addr) : EncodedLength.Statement (.decAbsX w) := fun _ => ⟨rfl, rfl⟩
theorem EncodedLength.inx : EncodedLength.Statement (.inx) := fun _ => ⟨rfl, rfl⟩
theorem EncodedLength.iny : EncodedLength.Statement (.iny) := fun _ => ⟨rfl, rfl⟩
theorem EncodedLength.dex : EncodedLength.Statement (.dex) := fun _ => ⟨rfl, rfl⟩
theorem EncodedLength.dey : EncodedLength.Statement (.dey) := fun _ => ⟨rfl, rfl⟩
theorem EncodedLength.andImm (v : Byte) : EncodedLength.Statement (.andImm v) := fun _ => ⟨rfl, rfl⟩
theorem EncodedLength.andZp (nn : Byte) : EncodedLength.Statement (.andZp nn) := fun _ => ⟨rfl, rfl⟩
theorem EncodedLength.andZpX (nn : Byte) : EncodedLength.Statement (.andZpX nn) := fun _ => ⟨rfl, rfl⟩
theorem EncodedLength.andAbs (w : Addr) : EncodedLength.Statement (.andAbs w) := fun _ => ⟨rfl, rfl⟩
theorem EncodedLength.andAbsX (w : Addr) : EncodedLength.Statement (.andAbsX w) := fun _ => ⟨rfl, rfl⟩
theorem EncodedLength.andAbsY (w : Addr) : EncodedLength.Statement (.andAbsY w) := fun _ => ⟨rfl, rfl⟩
theorem EncodedLength.sec : EncodedLength.Statement (.sec) := fun _ => ⟨rfl, rfl⟩
theorem EncodedLength.sed : EncodedLength.Statement (.sed) := fun _ => ⟨rfl, rfl⟩
theorem EncodedLength.sei : EncodedLength.Statement (.sei) := fun _ => ⟨rfl, rfl⟩
theorem EncodedLength.clc : EncodedLength.Statement (.clc) := fun _ => ⟨rfl, rfl⟩
theorem EncodedLength.cld : EncodedLength.Statement (.cld) := fun _ => ⟨rfl, rfl⟩
theorem EncodedLength.cli : EncodedLength.Statement (.cli) := fun _ => ⟨rfl, rfl⟩
theorem EncodedLength.clv : EncodedLength.Statement (.clv) := fun _ => ⟨rfl, rfl⟩
theorem EncodedLength.jmpAbs (w : Addr) : EncodedLength.Statement (.jmpAbs w) := fun _ => ⟨rfl, rfl⟩
theorem EncodedLength.jmpInd (w : Addr) : EncodedLength.Statement (.jmpInd w) := fun _ => ⟨rfl, rfl⟩
theorem EncodedLength.nop : EncodedLength.Statement (.nop) := fun _ => ⟨rfl, rfl⟩
theorem EncodedLength.unsupported (op : Byte) : EncodedLength.Statement (.unsupported op) := fun h =>
  ⟨rfl, lengthOf_unsupported h⟩

end Sys2Proof.Laws
end

