-- ==== Sys2Proof/Tests/Slice0.lean ====
section
/-! SUPPORT. The model's own tests. Expected results are the spec's: the Example line of each instruction's rule, and vectors of 95_test_vectors.md, named V<n>.<case> in the comments. -/

namespace Sys2Proof.Tests

open Machine

/-- A state with the given registers, the instruction's bytes at PC, data bytes at their addresses, and no diagnostic record. -/
def start (pc : Addr) (a x y sp p : Byte) (bytes : List Byte) (data : List (Addr × Byte)) : State :=
  { pc := pc, sp := sp, a := a, x := x, y := y, p := p, lastRead := none, lastWrite := none,
    mem := Memory.writeBytes (data.foldl (fun (m : Memory) c => Memory.write m c.1 c.2) []) pc bytes }

/-- Whether an outcome is a next state with the given registers, records and bytes of memory. -/
def shows (o : Outcome) (pc : Addr) (a x y sp p : Byte) (lastRead lastWrite : Option Addr)
    (data : List (Addr × Byte)) : Bool :=
  match o with
  | .next s => s.pc == pc && s.a == a && s.x == x && s.y == y && s.sp == sp && s.p == p && s.lastRead == lastRead &&
      s.lastWrite == lastWrite && data.all fun c => s.mem.read c.1 == c.2
  | .fault _ => false
  | .refused _ => false

-- WellFormed: the one check refuses an `unsupported` that carries a core opcode, and passes one that does not
theorem test_wf_refuses_core_opcode : (Instr.unsupported 0xA9).wf = false := by decide
theorem test_wf_accepts_unsupported : (Instr.unsupported 0x00).wf = true ∧ (Instr.ldaAbsX 0xFFFF).wf = true := by decide

-- Decode: every constructor by a word written out from the table of 30_encoding.md R66 and the formats of R61
theorem test_decode_loads :
    [(16, 0x80A9), (16, 0x80A5), (16, 0x80B5), (24, 0xAABBAD), (24, 0xAABBBD), (24, 0xAABBB9), (16, 0x80A2),
     (16, 0x80A6), (16, 0x80B6), (24, 0xAABBAE), (24, 0xAABBBE), (16, 0x80A0), (16, 0x80A4), (16, 0x80B4),
     (24, 0xAABBAC), (24, 0xAABBBC)].map
      (fun c => decodeTableWord c.1 c.2) =
    ([.ldaImm 0x80, .ldaZp 0x80, .ldaZpX 0x80, .ldaAbs 0xAABB, .ldaAbsX 0xAABB, .ldaAbsY 0xAABB, .ldxImm 0x80,
     .ldxZp 0x80, .ldxZpY 0x80, .ldxAbs 0xAABB, .ldxAbsY 0xAABB, .ldyImm 0x80, .ldyZp 0x80, .ldyZpX 0x80,
     .ldyAbs 0xAABB, .ldyAbsX 0xAABB] : List Instr).map some := by decide
theorem test_decode_stores :
    [(16, 0x8085), (16, 0x8095), (24, 0xAABB8D), (24, 0xAABB9D), (24, 0xAABB99), (16, 0x8086), (16, 0x8096),
     (24, 0xAABB8E), (16, 0x8084), (16, 0x8094), (24, 0xAABB8C)].map
      (fun c => decodeTableWord c.1 c.2) =
    ([.staZp 0x80, .staZpX 0x80, .staAbs 0xAABB, .staAbsX 0xAABB, .staAbsY 0xAABB, .stxZp 0x80, .stxZpY 0x80,
     .stxAbs 0xAABB, .styZp 0x80, .styZpX 0x80, .styAbs 0xAABB] : List Instr).map some := by decide
theorem test_decode_transfers :
    [(8, 0xAA), (8, 0xA8), (8, 0x8A), (8, 0x98), (8, 0xBA), (8, 0x9A)].map
      (fun c => decodeTableWord c.1 c.2) =
    ([.tax, .tay, .txa, .tya, .tsx, .txs] : List Instr).map some := by decide
theorem test_decode_incdec :
    [(16, 0x80E6), (16, 0x80F6), (24, 0xAABBEE), (24, 0xAABBFE), (16, 0x80C6), (16, 0x80D6), (24, 0xAABBCE),
     (24, 0xAABBDE), (8, 0xE8), (8, 0xC8), (8, 0xCA), (8, 0x88)].map
      (fun c => decodeTableWord c.1 c.2) =
    ([.incZp 0x80, .incZpX 0x80, .incAbs 0xAABB, .incAbsX 0xAABB, .decZp 0x80, .decZpX 0x80, .decAbs 0xAABB,
     .decAbsX 0xAABB, .inx, .iny, .dex, .dey] : List Instr).map some := by decide
theorem test_decode_and :
    [(16, 0x8029), (16, 0x8025), (16, 0x8035), (24, 0xAABB2D), (24, 0xAABB3D), (24, 0xAABB39)].map
      (fun c => decodeTableWord c.1 c.2) =
    ([.andImm 0x80, .andZp 0x80, .andZpX 0x80, .andAbs 0xAABB, .andAbsX 0xAABB, .andAbsY 0xAABB] : List Instr).map some := by decide
theorem test_decode_flags :
    [(8, 0x38), (8, 0xF8), (8, 0x78), (8, 0x18), (8, 0xD8), (8, 0x58), (8, 0xB8)].map
      (fun c => decodeTableWord c.1 c.2) =
    ([.sec, .sed, .sei, .clc, .cld, .cli, .clv] : List Instr).map some := by decide
theorem test_decode_jumps :
    [(24, 0xAABB4C), (24, 0xAABB6C)].map
      (fun c => decodeTableWord c.1 c.2) =
    ([.jmpAbs 0xAABB, .jmpInd 0xAABB] : List Instr).map some := by decide
theorem test_decode_nop_and_unsupported :
    [(8, 0xEA), (8, 0x00), (24, 0xAABB20)].map
      (fun c => decodeTableWord c.1 c.2) =
    ([.nop, .unsupported 0x00, .unsupported 0x20] : List Instr).map some := by decide
theorem test_decode_rejects_short : (decode [] = .error .noOpcode) ∧ (decode [0xAD, 0xBB] = .error (.missingOperand 0xAD)) := ⟨rfl, rfl⟩
theorem test_encode_ldaAbs : encode (.ldaAbs 0xAABB) = [0xAD, 0xBB, 0xAA] := by decide

-- One step per instruction: the Example line of its rule
-- LDA_IMM, 41_load.md R100
theorem test_ldaImm : shows (step (start 0x0300 0x00 0x00 0x00 0x00 0x02 [0xA9, 0x80] []))
    0x0302 0x80 0x00 0x00 0x00 0x80 (some 0x0301) none [] = true := by decide
-- LDA_ZP, 41_load.md R101
theorem test_ldaZp : shows (step (start 0x0300 0x00 0x00 0x00 0x00 0x00 [0xA5, 0x10] [(0x0010, 0x00)]))
    0x0302 0x00 0x00 0x00 0x00 0x02 (some 0x0010) none [] = true := by decide
-- LDA_ZPX, 41_load.md R102
theorem test_ldaZpX : shows (step (start 0x0300 0x00 0xFF 0x00 0x00 0x00 [0xB5, 0x80] [(0x007F, 0x5A)]))
    0x0302 0x5A 0xFF 0x00 0x00 0x00 (some 0x007F) none [] = true := by decide
-- LDA_ABS, 41_load.md R103
theorem test_ldaAbs : shows (step (start 0x0300 0x00 0x00 0x00 0x00 0x00 [0xAD, 0xBB, 0xAA] [(0xAABB, 0x7F)]))
    0x0303 0x7F 0x00 0x00 0x00 0x00 (some 0xAABB) none [] = true := by decide
-- LDA_ABSX, 41_load.md R104
theorem test_ldaAbsX : shows (step (start 0x0300 0x00 0x20 0x00 0x00 0x00 [0xBD, 0xF0, 0x12] [(0x1310, 0xFE)]))
    0x0303 0xFE 0x20 0x00 0x00 0x80 (some 0x1310) none [] = true := by decide
-- LDA_ABSY, 41_load.md R105
theorem test_ldaAbsY : shows (step (start 0x0300 0x00 0x00 0x01 0x00 0x00 [0xB9, 0xFF, 0xFF] [(0x0000, 0x00)]))
    0x0303 0x00 0x00 0x01 0x00 0x02 (some 0x0000) none [] = true := by decide
-- LDX_IMM, 41_load.md R106
theorem test_ldxImm : shows (step (start 0x0300 0x00 0x00 0x00 0x00 0x02 [0xA2, 0x80] []))
    0x0302 0x00 0x80 0x00 0x00 0x80 (some 0x0301) none [] = true := by decide
-- LDX_ZP, 41_load.md R107
theorem test_ldxZp : shows (step (start 0x0300 0x00 0x00 0x00 0x00 0x00 [0xA6, 0x10] [(0x0010, 0x00)]))
    0x0302 0x00 0x00 0x00 0x00 0x02 (some 0x0010) none [] = true := by decide
-- LDX_ZPY, 41_load.md R108
theorem test_ldxZpY : shows (step (start 0x0300 0x00 0x00 0xFF 0x00 0x00 [0xB6, 0x80] [(0x007F, 0xC3)]))
    0x0302 0x00 0xC3 0xFF 0x00 0x80 (some 0x007F) none [] = true := by decide
-- LDX_ABS, 41_load.md R109
theorem test_ldxAbs : shows (step (start 0x0300 0x00 0x00 0x00 0x00 0x00 [0xAE, 0xBB, 0xAA] [(0xAABB, 0x7F)]))
    0x0303 0x00 0x7F 0x00 0x00 0x00 (some 0xAABB) none [] = true := by decide
-- LDX_ABSY, 41_load.md R110
theorem test_ldxAbsY : shows (step (start 0x0300 0x00 0x00 0x01 0x00 0x00 [0xBE, 0xFF, 0xFF] [(0x0000, 0x00)]))
    0x0303 0x00 0x00 0x01 0x00 0x02 (some 0x0000) none [] = true := by decide
-- LDY_IMM, 41_load.md R111
theorem test_ldyImm : shows (step (start 0x0300 0x00 0x00 0x00 0x00 0x02 [0xA0, 0x80] []))
    0x0302 0x00 0x00 0x80 0x00 0x80 (some 0x0301) none [] = true := by decide
-- LDY_ZP, 41_load.md R112
theorem test_ldyZp : shows (step (start 0x0300 0x00 0x00 0x00 0x00 0x00 [0xA4, 0x10] [(0x0010, 0x00)]))
    0x0302 0x00 0x00 0x00 0x00 0x02 (some 0x0010) none [] = true := by decide
-- LDY_ZPX, 41_load.md R113
theorem test_ldyZpX : shows (step (start 0x0300 0x00 0xFF 0x00 0x00 0x00 [0xB4, 0x80] [(0x007F, 0x5A)]))
    0x0302 0x00 0xFF 0x5A 0x00 0x00 (some 0x007F) none [] = true := by decide
-- LDY_ABS, 41_load.md R114
theorem test_ldyAbs : shows (step (start 0x0300 0x00 0x00 0x00 0x00 0x00 [0xAC, 0xBB, 0xAA] [(0xAABB, 0x7F)]))
    0x0303 0x00 0x00 0x7F 0x00 0x00 (some 0xAABB) none [] = true := by decide
-- LDY_ABSX, 41_load.md R115
theorem test_ldyAbsX : shows (step (start 0x0300 0x00 0x20 0x00 0x00 0x00 [0xBC, 0xF0, 0x12] [(0x1310, 0xFE)]))
    0x0303 0x00 0x20 0xFE 0x00 0x80 (some 0x1310) none [] = true := by decide
-- STA_ZP, 42_store.md R120
theorem test_staZp : shows (step (start 0x0300 0x40 0x00 0x00 0x00 0x00 [0x85, 0xFF] []))
    0x0302 0x40 0x00 0x00 0x00 0x00 (some 0x0301) (some 0x00FF) [(0x00FF, 0x40)] = true := by decide
-- STA_ZPX, 42_store.md R121
theorem test_staZpX : shows (step (start 0x0300 0x40 0xFF 0x00 0x00 0x00 [0x95, 0x80] []))
    0x0302 0x40 0xFF 0x00 0x00 0x00 (some 0x0301) (some 0x007F) [(0x007F, 0x40)] = true := by decide
-- STA_ABS, 42_store.md R122
theorem test_staAbs : shows (step (start 0x0300 0x40 0x00 0x00 0x00 0x00 [0x8D, 0x00, 0x02] []))
    0x0303 0x40 0x00 0x00 0x00 0x00 (some 0x0302) (some 0x0200) [(0x0200, 0x40)] = true := by decide
-- STA_ABSX, 42_store.md R123
theorem test_staAbsX : shows (step (start 0x0300 0x40 0x02 0x00 0x00 0x00 [0x9D, 0xFF, 0xFF] []))
    0x0303 0x40 0x02 0x00 0x00 0x00 (some 0x0302) (some 0x0001) [(0x0001, 0x40)] = true := by decide
-- STA_ABSY, 42_store.md R124
theorem test_staAbsY : shows (step (start 0x0300 0x40 0x00 0x20 0x00 0x00 [0x99, 0xF0, 0x12] []))
    0x0303 0x40 0x00 0x20 0x00 0x00 (some 0x0302) (some 0x1310) [(0x1310, 0x40)] = true := by decide
-- STX_ZP, 42_store.md R125
theorem test_stxZp : shows (step (start 0x0300 0x00 0x40 0x00 0x00 0x00 [0x86, 0xFF] []))
    0x0302 0x00 0x40 0x00 0x00 0x00 (some 0x0301) (some 0x00FF) [(0x00FF, 0x40)] = true := by decide
-- STX_ZPY, 42_store.md R126
theorem test_stxZpY : shows (step (start 0x0300 0x00 0x40 0xFF 0x00 0x00 [0x96, 0x80] []))
    0x0302 0x00 0x40 0xFF 0x00 0x00 (some 0x0301) (some 0x007F) [(0x007F, 0x40)] = true := by decide
-- STX_ABS, 42_store.md R127
theorem test_stxAbs : shows (step (start 0x0300 0x00 0x40 0x00 0x00 0x00 [0x8E, 0x00, 0x02] []))
    0x0303 0x00 0x40 0x00 0x00 0x00 (some 0x0302) (some 0x0200) [(0x0200, 0x40)] = true := by decide
-- STY_ZP, 42_store.md R128
theorem test_styZp : shows (step (start 0x0300 0x00 0x00 0x40 0x00 0x00 [0x84, 0xFF] []))
    0x0302 0x00 0x00 0x40 0x00 0x00 (some 0x0301) (some 0x00FF) [(0x00FF, 0x40)] = true := by decide
-- STY_ZPX, 42_store.md R129
theorem test_styZpX : shows (step (start 0x0300 0x00 0xFF 0x40 0x00 0x00 [0x94, 0x80] []))
    0x0302 0x00 0xFF 0x40 0x00 0x00 (some 0x0301) (some 0x007F) [(0x007F, 0x40)] = true := by decide
-- STY_ABS, 42_store.md R130
theorem test_styAbs : shows (step (start 0x0300 0x00 0x00 0x40 0x00 0x00 [0x8C, 0x00, 0x02] []))
    0x0303 0x00 0x00 0x40 0x00 0x00 (some 0x0302) (some 0x0200) [(0x0200, 0x40)] = true := by decide
-- TAX, 43_transfer.md R140
theorem test_tax : shows (step (start 0x0300 0x80 0x00 0x00 0x00 0x00 [0xAA] []))
    0x0301 0x80 0x80 0x00 0x00 0x80 (some 0x0300) none [] = true := by decide
-- TAY, 43_transfer.md R141
theorem test_tay : shows (step (start 0x0300 0x80 0x00 0x00 0x00 0x00 [0xA8] []))
    0x0301 0x80 0x00 0x80 0x00 0x80 (some 0x0300) none [] = true := by decide
-- TXA, 43_transfer.md R142
theorem test_txa : shows (step (start 0x0300 0x00 0x80 0x00 0x00 0x00 [0x8A] []))
    0x0301 0x80 0x80 0x00 0x00 0x80 (some 0x0300) none [] = true := by decide
-- TYA, 43_transfer.md R143
theorem test_tya : shows (step (start 0x0300 0x00 0x00 0x80 0x00 0x00 [0x98] []))
    0x0301 0x80 0x00 0x80 0x00 0x80 (some 0x0300) none [] = true := by decide
-- TSX, 43_transfer.md R144
theorem test_tsx : shows (step (start 0x0300 0x00 0x00 0x00 0x80 0x00 [0xBA] []))
    0x0301 0x00 0x80 0x00 0x80 0x80 (some 0x0300) none [] = true := by decide
-- TXS, 43_transfer.md R145
theorem test_txs : shows (step (start 0x0300 0x00 0x00 0x00 0x00 0x80 [0x9A] []))
    0x0301 0x00 0x00 0x00 0x00 0x80 (some 0x0300) none [] = true := by decide
-- INC_ZP, 44_incdec.md R150
theorem test_incZp : shows (step (start 0x0300 0x00 0x00 0x00 0x00 0x00 [0xE6, 0x10] [(0x0010, 0xFF)]))
    0x0302 0x00 0x00 0x00 0x00 0x02 (some 0x0010) (some 0x0010) [(0x0010, 0x00)] = true := by decide
-- INC_ZPX, 44_incdec.md R151
theorem test_incZpX : shows (step (start 0x0300 0x00 0xFF 0x00 0x00 0x00 [0xF6, 0x80] [(0x007F, 0x7F)]))
    0x0302 0x00 0xFF 0x00 0x00 0x80 (some 0x007F) (some 0x007F) [(0x007F, 0x80)] = true := by decide
-- INC_ABS, 44_incdec.md R152
theorem test_incAbs : shows (step (start 0x0300 0x00 0x00 0x00 0x00 0x00 [0xEE, 0x00, 0x02] [(0x0200, 0xFF)]))
    0x0303 0x00 0x00 0x00 0x00 0x02 (some 0x0200) (some 0x0200) [(0x0200, 0x00)] = true := by decide
-- INC_ABSX, 44_incdec.md R153
theorem test_incAbsX : shows (step (start 0x0300 0x00 0x01 0x00 0x00 0x00 [0xFE, 0xFF, 0xFF] [(0x0000, 0xFF)]))
    0x0303 0x00 0x01 0x00 0x00 0x02 (some 0x0000) (some 0x0000) [(0x0000, 0x00)] = true := by decide
-- DEC_ZP, 44_incdec.md R154
theorem test_decZp : shows (step (start 0x0300 0x00 0x00 0x00 0x00 0x00 [0xC6, 0x10] [(0x0010, 0x00)]))
    0x0302 0x00 0x00 0x00 0x00 0x80 (some 0x0010) (some 0x0010) [(0x0010, 0xFF)] = true := by decide
-- DEC_ZPX, 44_incdec.md R155
theorem test_decZpX : shows (step (start 0x0300 0x00 0xFF 0x00 0x00 0x00 [0xD6, 0x80] [(0x007F, 0x80)]))
    0x0302 0x00 0xFF 0x00 0x00 0x00 (some 0x007F) (some 0x007F) [(0x007F, 0x7F)] = true := by decide
-- DEC_ABS, 44_incdec.md R156
theorem test_decAbs : shows (step (start 0x0300 0x00 0x00 0x00 0x00 0x00 [0xCE, 0x00, 0x02] [(0x0200, 0x01)]))
    0x0303 0x00 0x00 0x00 0x00 0x02 (some 0x0200) (some 0x0200) [(0x0200, 0x00)] = true := by decide
-- DEC_ABSX, 44_incdec.md R157
theorem test_decAbsX : shows (step (start 0x0300 0x00 0x01 0x00 0x00 0x00 [0xDE, 0xFF, 0xFF] [(0x0000, 0x00)]))
    0x0303 0x00 0x01 0x00 0x00 0x80 (some 0x0000) (some 0x0000) [(0x0000, 0xFF)] = true := by decide
-- INX, 44_incdec.md R158
theorem test_inx : shows (step (start 0x0300 0x00 0xFF 0x00 0x00 0x00 [0xE8] []))
    0x0301 0x00 0x00 0x00 0x00 0x02 (some 0x0300) none [] = true := by decide
-- INY, 44_incdec.md R159
theorem test_iny : shows (step (start 0x0300 0x00 0x00 0xFF 0x00 0x00 [0xC8] []))
    0x0301 0x00 0x00 0x00 0x00 0x02 (some 0x0300) none [] = true := by decide
-- DEX, 44_incdec.md R160
theorem test_dex : shows (step (start 0x0300 0x00 0x00 0x00 0x00 0x00 [0xCA] []))
    0x0301 0x00 0xFF 0x00 0x00 0x80 (some 0x0300) none [] = true := by decide
-- DEY, 44_incdec.md R161
theorem test_dey : shows (step (start 0x0300 0x00 0x00 0x00 0x00 0x00 [0x88] []))
    0x0301 0x00 0x00 0xFF 0x00 0x80 (some 0x0300) none [] = true := by decide
-- AND_IMM, 45_logical.md R170
theorem test_andImm : shows (step (start 0x0300 0xFF 0x00 0x00 0x00 0x80 [0x29, 0x00] []))
    0x0302 0x00 0x00 0x00 0x00 0x02 (some 0x0301) none [] = true := by decide
-- AND_ZP, 45_logical.md R171
theorem test_andZp : shows (step (start 0x0300 0xF0 0x00 0x00 0x00 0x00 [0x25, 0x10] [(0x0010, 0x3C)]))
    0x0302 0x30 0x00 0x00 0x00 0x00 (some 0x0010) none [] = true := by decide
-- AND_ZPX, 45_logical.md R172
theorem test_andZpX : shows (step (start 0x0300 0xFF 0xFF 0x00 0x00 0x00 [0x35, 0x80] [(0x007F, 0x81)]))
    0x0302 0x81 0xFF 0x00 0x00 0x80 (some 0x007F) none [] = true := by decide
-- AND_ABS, 45_logical.md R173
theorem test_andAbs : shows (step (start 0x0300 0x0F 0x00 0x00 0x00 0x00 [0x2D, 0xBB, 0xAA] [(0xAABB, 0xF0)]))
    0x0303 0x00 0x00 0x00 0x00 0x02 (some 0xAABB) none [] = true := by decide
-- AND_ABSX, 45_logical.md R174
theorem test_andAbsX : shows (step (start 0x0300 0xC0 0x20 0x00 0x00 0x00 [0x3D, 0xF0, 0x12] [(0x1310, 0x80)]))
    0x0303 0x80 0x20 0x00 0x00 0x80 (some 0x1310) none [] = true := by decide
-- AND_ABSY, 45_logical.md R175
theorem test_andAbsY : shows (step (start 0x0300 0xFF 0x00 0x01 0x00 0x00 [0x39, 0xFF, 0xFF] [(0x0000, 0x7F)]))
    0x0303 0x7F 0x00 0x01 0x00 0x00 (some 0x0000) none [] = true := by decide
-- SEC, 46_flag.md R180
theorem test_sec : shows (step (start 0x0300 0x00 0x00 0x00 0x00 0x00 [0x38] []))
    0x0301 0x00 0x00 0x00 0x00 0x01 (some 0x0300) none [] = true := by decide
-- SED, 46_flag.md R181
theorem test_sed : shows (step (start 0x0300 0x00 0x00 0x00 0x00 0x00 [0xF8] []))
    0x0301 0x00 0x00 0x00 0x00 0x08 (some 0x0300) none [] = true := by decide
-- SEI, 46_flag.md R182
theorem test_sei : shows (step (start 0x0300 0x00 0x00 0x00 0x00 0x00 [0x78] []))
    0x0301 0x00 0x00 0x00 0x00 0x04 (some 0x0300) none [] = true := by decide
-- CLC, 46_flag.md R183
theorem test_clc : shows (step (start 0x0300 0x00 0x00 0x00 0x00 0xFF [0x18] []))
    0x0301 0x00 0x00 0x00 0x00 0xFE (some 0x0300) none [] = true := by decide
-- CLD, 46_flag.md R184
theorem test_cld : shows (step (start 0x0300 0x00 0x00 0x00 0x00 0xFF [0xD8] []))
    0x0301 0x00 0x00 0x00 0x00 0xF7 (some 0x0300) none [] = true := by decide
-- CLI, 46_flag.md R185
theorem test_cli : shows (step (start 0x0300 0x00 0x00 0x00 0x00 0xFF [0x58] []))
    0x0301 0x00 0x00 0x00 0x00 0xFB (some 0x0300) none [] = true := by decide
-- CLV, 46_flag.md R186
theorem test_clv : shows (step (start 0x0300 0x00 0x00 0x00 0x00 0xFF [0xB8] []))
    0x0301 0x00 0x00 0x00 0x00 0xBF (some 0x0300) none [] = true := by decide
-- JMP_ABS, 47_jump.md R190
theorem test_jmpAbs : shows (step (start 0x0300 0x00 0x00 0x00 0x00 0x00 [0x4C, 0xBB, 0xAA] []))
    0xAABB 0x00 0x00 0x00 0x00 0x00 (some 0x0302) none [] = true := by decide
-- JMP_IND, 47_jump.md R191
theorem test_jmpInd : shows (step (start 0x0400 0x00 0x00 0x00 0x00 0x00 [0x6C, 0xFF, 0x02] [(0x0200, 0x99), (0x02FF, 0x34), (0x0300, 0x12)]))
    0x1234 0x00 0x00 0x00 0x00 0x00 (some 0x0300) none [] = true := by decide
-- NOP, 48_nop_unsupported.md R195
theorem test_nop : shows (step (start 0x0300 0x12 0x00 0x00 0x00 0x83 [0xEA] []))
    0x0301 0x12 0x00 0x00 0x00 0x83 (some 0x0300) none [] = true := by decide
-- UNSUPPORTED, 48_nop_unsupported.md R196
theorem test_unsupported : shows (step (start 0x0300 0x12 0x00 0x00 0x00 0x83 [0x20, 0xBB, 0xAA] []))
    0x0301 0x12 0x00 0x00 0x00 0x83 (some 0x0300) none [] = true := by decide

-- Corner cases, at most one more per instruction
-- V1.11
theorem test_ldaImm_pc_wrap : shows (step (start 0xFFFF 0x00 0x00 0x00 0x00 0x00 [0xA9, 0x00] []))
    0x0001 0x00 0x00 0x00 0x00 0x02 (some 0x0000) none [] = true := by decide
-- V1.12
theorem test_ldaAbs_operand_wrap : shows (step (start 0xFFFE 0x00 0x00 0x00 0x00 0x00 [0xAD, 0x00, 0x00] []))
    0x0001 0x00 0x00 0x00 0x00 0x02 (some 0x0000) none [] = true := by decide
-- V1.4
theorem test_ldaZpX_wrap : shows (step (start 0x0300 0x00 0x01 0x00 0x00 0x00 [0xB5, 0xFF] [(0x0000, 0x03), (0x0100, 0x99)]))
    0x0302 0x03 0x01 0x00 0x00 0x00 (some 0x0000) none [] = true := by decide
-- V1.9
theorem test_ldaAbsX_wrap : shows (step (start 0x0300 0x00 0xFF 0x00 0x00 0x00 [0xBD, 0xFF, 0xFF] [(0x00FE, 0x08)]))
    0x0303 0x08 0xFF 0x00 0x00 0x00 (some 0x00FE) none [] = true := by decide
-- V3.3
theorem test_staAbs_own_opcode : shows (step (start 0x0300 0xEA 0x00 0x00 0x00 0x00 [0x8D, 0x00, 0x03] []))
    0x0303 0xEA 0x00 0x00 0x00 0x00 (some 0x0302) (some 0x0300) [(0x0300, 0xEA)] = true := by decide
-- V3.4
theorem test_staAbsX_own_operand : shows (step (start 0x0300 0x00 0x01 0x00 0x00 0x00 [0x9D, 0x01, 0x03] []))
    0x0303 0x00 0x01 0x00 0x00 0x00 (some 0x0302) (some 0x0302) [(0x0302, 0x00)] = true := by decide
-- V3.1
theorem test_staZp_keeps_flags : shows (step (start 0x0300 0xFF 0x00 0x00 0x00 0x82 [0x85, 0x00] []))
    0x0302 0xFF 0x00 0x00 0x00 0x82 (some 0x0301) (some 0x0000) [(0x0000, 0xFF)] = true := by decide
-- V4.7
theorem test_txs_keeps_flags : shows (step (start 0x0300 0x00 0x00 0x00 0xFF 0x80 [0x9A] []))
    0x0301 0x00 0x00 0x00 0x00 0x80 (some 0x0300) none [] = true := by decide
-- V5.1
theorem test_incZp_keeps_carry : shows (step (start 0x0300 0x00 0x00 0x00 0x00 0x01 [0xE6, 0x10] [(0x0010, 0x7F)]))
    0x0302 0x00 0x00 0x00 0x00 0x81 (some 0x0010) (some 0x0010) [(0x0010, 0x80)] = true := by decide
-- V5.3
theorem test_incAbs_own_operand : shows (step (start 0x0300 0x00 0x00 0x00 0x00 0x00 [0xEE, 0x02, 0x03] []))
    0x0303 0x00 0x00 0x00 0x00 0x00 (some 0x0302) (some 0x0302) [(0x0302, 0x04)] = true := by decide
-- V5.10
theorem test_iny_keeps_overflow : shows (step (start 0x0300 0x00 0x00 0xFF 0x00 0xC1 [0xC8] []))
    0x0301 0x00 0x00 0x00 0x00 0x43 (some 0x0300) none [] = true := by decide
-- V6.7
theorem test_andAbsY_keeps_carry : shows (step (start 0x0300 0x81 0x00 0x10 0x00 0x41 [0x39, 0x00, 0x40] [(0x4010, 0x81)]))
    0x0303 0x81 0x00 0x10 0x00 0xC1 (some 0x4010) none [] = true := by decide
-- V7.3
theorem test_sed_keeps_others : shows (step (start 0x0300 0x00 0x00 0x00 0x00 0x81 [0xF8] []))
    0x0301 0x00 0x00 0x00 0x00 0x89 (some 0x0300) none [] = true := by decide
-- V7.6
theorem test_clc_when_clear : shows (step (start 0x0300 0x00 0x00 0x00 0x00 0x00 [0x18] []))
    0x0301 0x00 0x00 0x00 0x00 0x00 (some 0x0300) none [] = true := by decide
-- V8.1
theorem test_jmpAbs_self : shows (step (start 0x0300 0x00 0x00 0x00 0x00 0x00 [0x4C, 0x00, 0x03] []))
    0x0300 0x00 0x00 0x00 0x00 0x00 (some 0x0302) none [] = true := by decide
-- V8.5
theorem test_jmpInd_pointer_wrap : shows (step (start 0x0300 0x00 0x00 0x00 0x00 0x00 [0x6C, 0xFF, 0xFF] [(0x0000, 0x12), (0xFFFF, 0x34)]))
    0x1234 0x00 0x00 0x00 0x00 0x00 (some 0x0000) none [] = true := by decide
-- V9.7
theorem test_unsupported_pc_wrap : shows (step (start 0xFFFF 0x00 0x00 0x00 0x00 0x00 [0xFF] []))
    0x0000 0x00 0x00 0x00 0x00 0x00 (some 0xFFFF) none [] = true := by decide
-- V9.1
theorem test_nop_keeps_flags : shows (step (start 0x0300 0x01 0x00 0x00 0x00 0x83 [0xEA] []))
    0x0301 0x01 0x00 0x00 0x00 0x83 (some 0x0300) none [] = true := by decide
-- E1, a start no run reaches: only Z and N of 0xFF change
theorem test_ldxImm_only_zn : shows (step (start 0x0000 0x00 0x00 0x00 0x00 0xFF [0xA2, 0x00] []))
    0x0002 0x00 0x00 0x00 0x00 0x7F (some 0x0001) none [] = true := by decide

-- The host interface
-- V10.1 and V10.2: reset() leaves memory and the records
theorem test_hostReset :
    let s : State := { pc := 0xABCD, sp := 0x04, a := 0x01, x := 0x02, y := 0x03, p := 0xFF, mem := [(0, 0x4C)],
                       lastRead := some 0x1111, lastWrite := some 0x2222 }
    shows (.next (hostReset s)) 0x0000 0x00 0x00 0x00 0x00 0x00 (some 0x1111) (some 0x2222) [(0x0000, 0x4C)] = true ∧
      hostReset (hostReset s) = hostReset s := by decide
-- R196: the step report of 0x20
theorem test_stepReport_unsupported : stepReport (start 0x0300 0x12 0x00 0x00 0x00 0x83 [0x20, 0xBB, 0xAA] []) =
    { opaddr := 0x0300, opcode := 0x20, handler := "UNSUPPORTED", supported := false, ea := none, value := none } := by
  decide
-- R96 on program 1, step 2: LDA $80,X with X = 0xFF
theorem test_stepReport_ldaZpX : stepReport (start 0x0002 0x00 0xFF 0x00 0x00 0x80 [0xB5, 0x80] [(0x007F, 0x5A)]) =
    { opaddr := 0x0002, opcode := 0xB5, handler := "LDA_ZPX", supported := true, ea := some 0x007F, value := some 0x5A } := by
  decide

-- The host's two questions, from reset: a word stored where the step fetches next is the instruction it runs
theorem test_withFetchWord : shows (step (State.reset.withFetchWord 24 0xAABB4C))
    0xAABB 0x00 0x00 0x00 0x00 0x00 (some 0x0002) none [] = true := by decide
theorem test_withFetchWord_opcode_only : shows (step (State.reset.withFetchWord 8 0xAD))
    0x0003 0xAD 0x00 0x00 0x00 0x80 (some 0x0000) none [] = true := by decide

-- A memory write that stores the unlisted byte removes the cell, and one that does not keeps the order
theorem test_memory_canonical :
    Memory.write (Memory.write (Memory.write [] 0x0002 0x22) 0x0001 0x11) 0x0002 0x00 = [(0x0001, 0x11)] ∧
    Memory.write [(0x0002, 0x22)] 0x0001 0x11 = [(0x0001, 0x11), (0x0002, 0x22)] := by decide
-- wf refuses a list out of order, a cell equal to the unlisted byte and an address outside the space
theorem test_memory_wf_refuses : Memory.wf [(2, 1), (1, 1)] = false ∧ Memory.wf [(1, 0)] = false ∧
    Memory.wf [(65536, 1)] = false := by decide

-- Witnesses: for every statement with hypotheses, a state and operands that meet them together
def sampleState : State := start 0xFFFE 0x40 0xFF 0x01 0x80 0x82 [0x9D, 0xFD, 0x00] [(0x00FF, 0x5A)]

theorem witness_DecodeOfEncode : (Instr.unsupported 0xFF).wf = true ∧ (Instr.jmpInd 0xFFFF).wf = true := by decide
theorem witness_EncodeOfDecode : decode [0xDE, 0xFF, 0xFF, 0xEA] = .ok (.decAbsX 0xFFFF, [0xEA]) ∧
    decode [0xFF, 0x01] = .ok (.unsupported 0xFF, [0x01]) ∧ decode [0xB5, 0xFF] = .ok (.ldaZpX 0xFF, []) := ⟨rfl, rfl, rfl⟩
theorem witness_DecodingNeverFails : sampleState.pc = { sampleState with a := 0, p := 0xFF }.pc ∧
    sampleState.mem = { sampleState with a := 0, p := 0xFF }.mem := by decide
theorem witness_UnsupportedBytes : dispatch 0x00 0xA9 0xA9 = .unsupported 0x00 ∧ dispatch 0xFF 0x00 0x00 = .unsupported 0xFF := by
  decide
theorem witness_StepRunsDecoded : decode [sampleState.mem.read sampleState.pc, sampleState.mem.read (sampleState.pc + 1),
    sampleState.mem.read (sampleState.pc + 2)] = .ok (.staAbsX 0x00FD, []) := by decide
theorem witness_StepIsTotal : sameButDiagnostics sampleState { sampleState with lastRead := some 0xFFFF } ∧
    (∃ t, step sampleState = .next t) ∧ ∃ t, step { sampleState with lastRead := some 0xFFFF } = .next t :=
  ⟨rfl, ⟨_, rfl⟩, ⟨_, rfl⟩⟩
theorem witness_Status : sameButStatus sampleState { sampleState with p := 0xFF } := rfl
theorem witness_StackPointer : sameButSp sampleState { sampleState with sp := 0xFF } ∧
    (fetchInstr sampleState).1 ≠ .tsx ∧ (fetchInstr sampleState).1 ≠ .txs := ⟨rfl, by decide, by decide⟩
theorem witness_StepKeepsMemoryCanonical : SafeState sampleState ∧ ∃ t, step sampleState = .next t := ⟨by decide, _, rfl⟩
theorem witness_EveryHostCommand : SafeState sampleState := by decide
theorem witness_BreakBitFive : (∃ t, step { sampleState with p := 0xFF } = .next t) ∧
    (start 0x0300 0x00 0x00 0x00 0x00 0x40 [0xB8] []).p.getLsbD 6 = true ∧
    (sampleState.p &&& 0x70 = 0 ∧ ∃ t, step sampleState = .next t) := ⟨⟨_, rfl⟩, by decide, by decide, _, rfl⟩
theorem witness_ZeroAndNegative : (Instr.decZp 0xFF).resultByte sampleState = some 0x59 := by decide
theorem witness_ZeroAndNegative_none : (Instr.txs).resultByte sampleState = none := by decide
theorem witness_RegisterFrame : (Instr.ldxZpY 0xFF).destReg ≠ some .y ∧ (Instr.nop).destReg ≠ some .sp := by decide
theorem witness_StatusFrame : (Instr.inx).statusMask.getLsbD 0 = false ∧ (Instr.sec).statusMask.getLsbD 7 = false := by decide
theorem witness_MemoryFrame : (Instr.staAbsX 0x00FD).storeAddr sampleState = some 0x01FC ∧ (0x01FD : Addr) ≠ 0x01FC ∧
    SafeState sampleState ∧ (Instr.ldaZp 0xFF).storeAddr sampleState = none := by decide
-- one clause each: past the instruction, JMP absolute, JMP indirect at the top of memory, a data read, a store
theorem witness_PcAndRecords : (fetchInstr sampleState).1.isJump = false ∧
    (fetchInstr (start 0xFFFD 0 0 0 0 0 [0x4C, 0xFF, 0xFF] [])).1 = .jmpAbs 0xFFFF ∧
    (fetchInstr (start 0x0300 0 0 0 0 0 [0x6C, 0xFF, 0xFF] [])).1 = .jmpInd 0xFFFF ∧
    (fetchInstr (start 0x0300 0 1 0 0 0 [0xBD, 0xFF, 0xFF] [])).1.dataReadAddr (start 0x0300 0 1 0 0 0 [] []) =
      some 0x0000 ∧
    (fetchInstr sampleState).1.storeAddr sampleState = some 0x01FC := by decide
theorem witness_Accumulator : (Instr.ldxImm 0xFF).mnemonic ∉ ["LDA", "TXA", "TYA", "AND"] ∧
    (Instr.txa).mnemonic ∈ ["LDA", "TXA", "TYA"] ∧ (Instr.andImm 0xFF).mnemonic ∈ ["LDA", "TXA", "TYA", "AND"] ∧
    (Instr.nop).mnemonic ∉ ["LDA", "TXA", "TYA", "STA", "TAX", "TAY", "AND"] ∧
    (Instr.staAbsX 0x00FD).mnemonic = "STA" ∧ SafeState sampleState ∧
    (Instr.andAbsX 0xFFFF).mnemonic = "AND" ∧ (Instr.andAbsX 0xFFFF).dataReadAddr sampleState = some 0x00FE := by
  decide
theorem witness_IndexRegister_x : (Instr.ldaAbsX 0xFFFF).mnemonic ∉ ["LDX", "TAX", "TSX", "INX", "DEX"] ∧
    (Instr.ldxZpY 0xFF).mnemonic ∈ ["LDX", "TAX", "TSX"] ∧
    (Instr.dex).mnemonic ∈ ["LDX", "TAX", "TSX", "INX", "DEX"] ∧
    ((Instr.ldaZp 0xFF).mnemonic ∉ ["LDX", "TAX", "TSX", "STX", "TXA", "TXS", "INX", "DEX"] ∧
      (Instr.ldaZp 0xFF).mode ≠ .zeroPageX ∧ (Instr.ldaZp 0xFF).mode ≠ .absoluteX) ∧
    ((Instr.stxZpY 0xFF).mnemonic = "STX" ∧ SafeState sampleState) ∧
    (Instr.ldyZpX 0xFF).mode = .zeroPageX ∧ (Instr.staAbsX 0xFFFF).mode = .absoluteX := by decide
theorem witness_IndexRegister_y : (Instr.ldyAbsX 0xFFFF).mnemonic ∈ ["LDY", "TAY"] ∧
    (Instr.ldxZpY 0xFF).mnemonic ∉ ["LDY", "TAY", "INY", "DEY"] ∧
    (Instr.dey).mnemonic ∈ ["LDY", "TAY", "INY", "DEY"] ∧
    ((Instr.ldaZp 0xFF).mnemonic ∉ ["LDY", "TAY", "STY", "TYA", "INY", "DEY"] ∧
      (Instr.ldaZp 0xFF).mode ≠ .zeroPageY ∧ (Instr.ldaZp 0xFF).mode ≠ .absoluteY) ∧
    ((Instr.styAbs 0xFFFF).mnemonic = "STY" ∧ SafeState sampleState) ∧
    (Instr.stxZpY 0xFF).mode = .zeroPageY ∧ (Instr.andAbsY 0xFFFF).mode = .absoluteY := by decide
theorem witness_IndexRegister_sum : (0xFF00 : Addr).toNat + sampleState.x.toNat < 65536 ∧
    (0xFFFE : Addr).toNat + sampleState.y.toNat < 65536 ∧ Reg.y ≠ Reg.x := by decide
theorem witness_MemWrite : SafeState sampleState ∧ (memWrite sampleState 0xFFFF 0xFF).mem.read 0xFFFF = 0xFF := by decide
theorem witness_WritesIdempotent : SafeState sampleState ∧ SafeState State.reset := by decide
theorem witness_MemoriesThatReadEqual : Memory.wf sampleState.mem ∧
    ∀ addr : Addr, sampleState.mem.read addr = sampleState.mem.read addr := ⟨by decide, fun _ => rfl⟩
theorem witness_FetchSees :
    let s := start 0x0300 0xEA 0x01 0x00 0x00 0x00 [0x9D, 0xFE, 0xFF] []
    SafeState s ∧ shows (step s) 0x0303 0xEA 0x01 0x00 0x00 0x00 (some 0x0302) (some 0xFFFF) [(0xFFFF, 0xEA)] = true ∧
      (fetchInstr s).1.storeAddr s = some 0xFFFF ∧ reportValue (fetchInstr s).1 s = some 0xEA := by decide
theorem witness_SetZnBits : (7 : Nat) < 8 ∧ (sampleState.setZN 0x80).p.getLsbD 7 = true := by decide
theorem witness_ZeroPageAddresses : fetchByte sampleState = (0x9D, { sampleState with pc := 0xFFFF, lastRead := some 0xFFFE }) := by
  decide
theorem witness_AbsoluteAddresses : fetchWord sampleState = (0xFD9D, { sampleState with pc := 0x0000, lastRead := some 0xFFFF }) := by
  decide
theorem witness_UnsupportedByte : let s := start 0xFFFF 0x00 0x00 0x00 0x00 0x00 [0xFF] []
    s.mem.read s.pc ∉ coreOpcodes := by decide
theorem witness_RunIsNSteps : ∃ t u rs qs, run 1 sampleState = .next (t, rs) ∧ run 1 t = .next (u, qs) :=
  ⟨_, _, _, _, rfl, rfl⟩
theorem witness_LoadThenPeek : SafeState sampleState ∧ (0xFFFF : Addr) ≠ 0x0000 := by decide
theorem witness_StepReport : (fetchInstr (start 0x0300 0x00 0x00 0x00 0x00 0x00 [0x6C, 0xFF, 0xFF] [])).1.mnemonic = "JMP" ∧
    (fetchInstr (start 0x0300 0x00 0x00 0x00 0x00 0x00 [0xB6, 0xFF] [])).1.mnemonic ∈ ["LDA", "LDX", "LDY"] ∧
    ((fetchInstr sampleState).1.storeAddr sampleState = some 0x01FC ∧ SafeState sampleState) ∧
    (fetchInstr (start 0x0300 0x00 0x00 0x00 0x00 0x00 [0x39, 0xFF, 0xFF] [])).1.mnemonic = "AND" ∧
    (fetchInstr (start 0x0300 0x00 0x00 0x00 0x00 0x00 [0x29, 0xFF] [])).1 = .andImm 0xFF ∧
    (fetchInstr (start 0x0300 0x00 0x00 0x00 0x00 0x00 [0xEA] [])).1.mode = .implied := by decide

end Sys2Proof.Tests
end

/-! The proofs on the state of 10_state.md. What an instruction does is said once: `Shape` lists the few pseudocode shapes of 41_load.md to 48_nop_unsupported.md, and `exec_eq_after` ties every arm of `exec` to one of them. What is claimed of every instruction is then proved once per shape. -/

namespace Sys2Proof.Machine

variable (s : State) (r q : Reg) (v w : Byte) (ea : Addr)

/-! ### Registers commute with the operations that do not touch them -/

theorem setReg_setReg_same : (s.setReg r w).setReg r v = s.setReg r v := by cases r <;> rfl

theorem setReg_comm {r q : Reg} (h : r ≠ q) : (s.setReg q w).setReg r v = (s.setReg r v).setReg q w := by
  cases r <;> cases q <;> simp [State.setReg] at h ⊢

theorem reg_setReg_of_ne {r q : Reg} (h : r ≠ q) : (s.setReg q w).reg r = s.reg r := by
  rw [reg_setReg, if_neg h.symm]

theorem setReg_reg_self : s.setReg r (s.reg r) = s := by cases r <;> rfl

theorem putFlag_setReg (mask : Byte) (b : Bool) :
    (s.setReg q w).putFlag mask b = (s.putFlag mask b).setReg q w := by
  cases b <;> cases q <;> rfl

theorem setZN_setReg : (s.setReg q w).setZN v = (s.setZN v).setReg q w := by
  simp only [State.setZN, putFlag_setReg]

theorem memRead_setReg : memRead (s.setReg q w) ea = (s.mem.read ea, (memRead s ea).2.setReg q w) := by
  cases q <;> rfl

theorem memWrite_setReg : memWrite (s.setReg q w) ea v = (memWrite s ea v).setReg q w := by
  cases q <;> rfl

theorem result_setReg_same : result r v (s.setReg r w) = result r v s := by
  simp only [result_eq, setReg_setReg_same]

theorem result_setReg_of_ne {r q : Reg} (h : r ≠ q) :
    result r v (s.setReg q w) = (result r v s).setReg q w := by
  simp only [result_eq, setReg_comm s v w h, setZN_setReg]

/-! ### The status byte, bit by bit -/

theorem maskZ_eq_twoPow : maskZ = BitVec.twoPow 8 1 := rfl
theorem maskN_eq_twoPow : maskN = BitVec.twoPow 8 7 := rfl

/-- A flag written is the boolean; every bit outside the mask is kept. -/
theorem getLsbD_putFlag (mask : Byte) (b : Bool) (k : Nat) :
    (s.putFlag mask b).p.getLsbD k = if mask.getLsbD k then b else s.p.getLsbD k := by
  have hk : mask.getLsbD k = true → k < 8 := BitVec.lt_of_getLsbD
  have hp : s.p.getLsbD k = true → k < 8 := BitVec.lt_of_getLsbD
  cases b <;> cases hm : mask.getLsbD k <;> simp_all

/-- `SetZN` replaces bits 1 and 7 and keeps the others (10_state.md R36). -/
theorem getLsbD_setZN (k : Nat) : (s.setZN v).p.getLsbD k =
    (if k = 1 then v == 0 else if k = 7 then v.getLsbD 7 else s.p.getLsbD k) := by
  rw [State.setZN, getLsbD_putFlag, getLsbD_putFlag, maskN_eq_twoPow, maskZ_eq_twoPow, BitVec.msb_eq_getLsbD_last,
    BitVec.getLsbD_twoPow, BitVec.getLsbD_twoPow]
  by_cases h1 : k = 1
  · simp [h1]
  · simp [h1, eq_comm]

/-- `HasFlag` of a mask of any number of flags (10_state.md R35). -/
theorem hasFlag_iff (mask : Byte) :
    s.hasFlag mask = true ↔ ∃ k : Nat, k < 8 ∧ mask.getLsbD k = true ∧ s.p.getLsbD k = true := by
  constructor
  · intro h
    by_contra hno
    refine bne_iff_ne.1 h (BitVec.eq_of_getLsbD_eq fun k hk => ?_)
    simpa [hk] using fun hp hm => hno ⟨k, hk, hm, hp⟩
  · rintro ⟨k, -, hm, hp⟩
    refine bne_iff_ne.2 fun h => ?_
    simpa [hm, hp] using congrArg (·.getLsbD k) h

/-- `HasFlag` of the mask of one flag is its bit. -/
theorem hasFlag_twoPow {k : Nat} (hk : k < 8) : s.hasFlag (BitVec.twoPow 8 k) = s.p.getLsbD k := by
  rw [Bool.eq_iff_iff, hasFlag_iff]
  simp [hk]

theorem p_result : (result r v s).p = (s.setZN v).p := by
  rw [result_eq, setZN_setReg, setReg_p]

end Sys2Proof.Machine

namespace Sys2Proof

open Machine

/-- P after an instruction that has no result byte: the flag instructions set or clear their one flag (46_flag.md), the others keep P. -/
def Instr.flagWrite (i : Instr) (p : Byte) : Byte :=
  match i with
  | .sec => p ||| maskC
  | .sed => p ||| maskD
  | .sei => p ||| maskI
  | .clc => p &&& ~~~maskC
  | .cld => p &&& ~~~maskD
  | .cli => p &&& ~~~maskI
  | .clv => p &&& ~~~maskV
  | _ => p

/-- The pseudocode shapes of the instruction rules (41_load.md to 48_nop_unsupported.md), the effective address left out. -/
inductive Shape where
  /-- `R <- v; SetZN(v)` of an immediate byte. -/
  | put (r : Reg) (v : Byte)
  /-- `v <- MemRead(ea); R <- v; SetZN(v)`. -/
  | load (r : Reg)
  /-- `r <- f(src); dst <- r; SetZN(r)`: a transfer, a register count, AND of an immediate byte. -/
  | compute (f : Byte → Byte) (src dst : Reg)
  /-- `v <- MemRead(ea); r <- A & v; A <- r; SetZN(r)`. -/
  | andMem
  /-- `v <- MemRead(ea); r <- f(v); MemWrite(ea, r); SetZN(r)`. -/
  | modifyMem (f : Byte → Byte)
  /-- `MemWrite(ea, R)`. -/
  | store (r : Reg)
  /-- `SP <- X`, without flags. -/
  | txs
  /-- `P <- f(P)`: the flag instructions, and NOP and the unsupported handler with `f` the identity. -/
  | status (f : Byte → Byte)
  /-- `PC <- ea`. -/
  | jump
  /-- `PC <- EA_IND()` from the word at `ptr`. -/
  | jumpInd (ptr : Addr)

/-- Run a shape on the state after the fetch, with the effective address of the instruction. -/
def Shape.run (ea : Addr) (s : State) : Shape → State
  | .put r v => result r v s
  | .load r => Machine.load r ea s
  | .compute f src dst => result dst (f (s.reg src)) s
  | .andMem => Machine.andMem ea s
  | .modifyMem f => Machine.modifyMem f ea s
  | .store r => Machine.store r ea s
  | .txs => s.setReg .sp (s.reg .x)
  | .status f => { s with p := f s.p }
  | .jump => s.setPc ea
  | .jumpInd ptr => (eaInd ptr s).2.setPc (eaInd ptr s).1

/-- The register a shape writes. -/
def Shape.dest : Shape → Option Reg
  | .put r _ | .load r | .compute _ _ r => some r
  | .andMem => some .a
  | .txs => some .sp
  | .modifyMem _ | .store _ | .status _ | .jump | .jumpInd _ => none

/-- The register whose byte a shape uses, the index of the addressing mode aside. -/
def Shape.source : Shape → Option Reg
  | .compute _ r _ | .store r => some r
  | .andMem => some .a
  | .txs => some .x
  | .put _ _ | .load _ | .modifyMem _ | .status _ | .jump | .jumpInd _ => none

/-- The byte a shape hands to `SetZN`. -/
def Shape.resultByte (ea : Addr) (s : State) : Shape → Option Byte
  | .put _ v => some v
  | .load _ => some (s.mem.read ea)
  | .compute f src _ => some (f (s.reg src))
  | .andMem => some (s.a &&& s.mem.read ea)
  | .modifyMem f => some (f (s.mem.read ea))
  | .store _ | .txs | .status _ | .jump | .jumpInd _ => none

/-- What a shape without a result byte makes of P. -/
def Shape.flagWrite : Shape → Byte → Byte
  | .status f => f
  | _ => id

/-- The shape of each instruction. -/
def Instr.shape (i : Instr) : Shape :=
  match i with
  | .ldaImm v => .put .a v
  | .ldaZp _ | .ldaZpX _ | .ldaAbs _ | .ldaAbsX _ | .ldaAbsY _ => .load .a
  | .ldxImm v => .put .x v
  | .ldxZp _ | .ldxZpY _ | .ldxAbs _ | .ldxAbsY _ => .load .x
  | .ldyImm v => .put .y v
  | .ldyZp _ | .ldyZpX _ | .ldyAbs _ | .ldyAbsX _ => .load .y
  | .staZp _ | .staZpX _ | .staAbs _ | .staAbsX _ | .staAbsY _ => .store .a
  | .stxZp _ | .stxZpY _ | .stxAbs _ => .store .x
  | .styZp _ | .styZpX _ | .styAbs _ => .store .y
  | .tax => .compute id .a .x
  | .tay => .compute id .a .y
  | .txa => .compute id .x .a
  | .tya => .compute id .y .a
  | .tsx => .compute id .sp .x
  | .txs => .txs
  | .incZp _ | .incZpX _ | .incAbs _ | .incAbsX _ => .modifyMem inc
  | .decZp _ | .decZpX _ | .decAbs _ | .decAbsX _ => .modifyMem dec
  | .inx => .compute inc .x .x
  | .iny => .compute inc .y .y
  | .dex => .compute dec .x .x
  | .dey => .compute dec .y .y
  | .andImm v => .compute (· &&& v) .a .a
  | .andZp _ | .andZpX _ | .andAbs _ | .andAbsX _ | .andAbsY _ => .andMem
  | .sec | .sed | .sei | .clc | .cld | .cli | .clv | .nop | .unsupported _ => .status i.flagWrite
  | .jmpAbs _ => .jump
  | .jmpInd w => .jumpInd w

/-- The effective address of an instruction, as the step report gives it; 0 where the mode has none. -/
def Instr.ea (i : Instr) (s : State) : Addr := (reportEa i s).getD 0

/-- The state after an instruction. -/
def Instr.after (i : Instr) (s : State) : State := i.shape.run (i.ea s) s

/-- Every instruction completes, and does what its shape says with its effective address. -/
theorem exec_eq_after (i : Instr) (s : State) : exec i s = .next (i.after s) := by
  cases i <;> rfl

theorem Instr.destReg_eq (i : Instr) : i.destReg = i.shape.dest := by
  cases i <;> rfl

theorem dec_eq_sub_one (v : Byte) : dec v = v - 1 := by
  simp only [dec]; bv_omega

theorem Instr.resultByte_eq (i : Instr) (s : State) : i.resultByte s = i.shape.resultByte (i.ea s) s := by
  cases i <;> simp [Instr.resultByte, Instr.shape, Shape.resultByte, Instr.ea, reportEa, dec_eq_sub_one, inc]

theorem Instr.flagWrite_eq (i : Instr) : i.shape.flagWrite = i.flagWrite := by
  cases i <;> rfl

/-! ### What a shape does -/

section ShapeRules

variable {sh : Shape} {s : State} {ea : Addr} {q : Reg}

/-- No register changes but the one a shape writes. -/
theorem Shape.run_reg_of_dest_ne (h : sh.dest ≠ some q) : (sh.run ea s).reg q = s.reg q := by
  cases sh with
  | put r | load r | compute _ _ r =>
    have hq : r ≠ q := fun e => h (congrArg some e)
    simp [Shape.run, Machine.load, result_reg, hq]
  | andMem =>
    have hq : .a ≠ q := fun e => h (congrArg some e)
    simp [Shape.run, Machine.andMem, andA, result_reg, hq]
  | txs => exact reg_setReg_of_ne s _ fun e => h (congrArg some e.symm)
  | modifyMem | store | status | jump | jumpInd => cases q <;> simp [Shape.run, modifyMem_eq, store_eq, eaInd_eq]

/-- A register written with flags holds the result byte; TXS, the one write without flags, writes SP. -/
theorem Shape.resultByte_of_dest (h : sh.dest = some q) (hq : q ≠ .sp) :
    sh.resultByte ea s = some ((sh.run ea s).reg q) := by
  cases sh <;> cases h <;> simp [Shape.run, Shape.resultByte, load_eq, andMem_eq, result_eq, reg_setReg] at hq ⊢

theorem Shape.p_run_of_resultByte {v : Byte} (h : sh.resultByte ea s = some v) :
    (sh.run ea s).p = (s.setZN v).p := by
  cases sh <;> cases h <;> simp [Shape.run, load_eq, andMem_eq, modifyMem_eq, p_result, setZN_p]

theorem Shape.p_run_of_no_resultByte (h : sh.resultByte ea s = none) :
    (sh.run ea s).p = sh.flagWrite s.p := by
  cases sh <;> cases h <;> simp [Shape.run, Shape.flagWrite, store_eq, eaInd_eq]

/-- What a register holds beforehand changes nothing if the shape overwrites it without using it. -/
theorem Shape.run_setReg_of_overwritten (hd : sh.dest = some q) (hs : sh.source ≠ some q) (w : Byte) :
    sh.run ea (s.setReg q w) = sh.run ea s := by
  cases sh with
  | put r => cases hd; exact result_setReg_same ..
  | load r =>
    cases hd
    simp only [Shape.run, Machine.load, memRead_setReg, result_setReg_same, memRead_value]
  | compute f src dst =>
    cases hd
    simp only [Shape.run, result_setReg_same]
    rw [reg_setReg_of_ne _ _ fun e => hs (congrArg some e)]
  | andMem => cases hd; exact absurd rfl hs
  | txs => cases hd; rfl
  | modifyMem | store | status | jump | jumpInd => cases hd

/-- A register that a shape neither uses nor writes only passes through. -/
theorem Shape.run_setReg_of_unused (hd : sh.dest ≠ some q) (hs : sh.source ≠ some q) (w : Byte) :
    sh.run ea (s.setReg q w) = (sh.run ea s).setReg q w := by
  have ne_of {r : Reg} {o : Option Reg} (ho : o ≠ some q) (hr : o = some r) : r ≠ q := fun e => ho (e ▸ hr)
  cases sh with
  | put r => exact result_setReg_of_ne _ _ _ (ne_of hd rfl)
  | load r =>
    simp only [Shape.run, Machine.load, memRead_setReg, result_setReg_of_ne _ _ _ (ne_of hd rfl), memRead_value]
  | compute f src dst =>
    simp only [Shape.run, result_setReg_of_ne _ _ _ (ne_of hd rfl), reg_setReg_of_ne _ _ (ne_of hs rfl)]
  | andMem =>
    simp only [Shape.run, Machine.andMem, andA, memRead_setReg, reg_setReg_of_ne _ _ (ne_of hs rfl),
      result_setReg_of_ne _ _ _ (ne_of hd rfl), memRead_value]
  | modifyMem f =>
    simp only [Shape.run, Machine.modifyMem, memRead_setReg, memWrite_setReg, setZN_setReg, memRead_value]
  | store r =>
    simp only [Shape.run, Machine.store, memWrite_setReg, reg_setReg_of_ne _ _ (ne_of hs rfl)]
  | txs =>
    simp only [Shape.run, setReg_comm _ _ _ (ne_of hd rfl), reg_setReg_of_ne _ _ (ne_of hs rfl)]
  | status | jump | jumpInd => cases q <;> rfl

end ShapeRules

/-! ### The mnemonics that write and use each register, and the modes it indexes (10_state.md R22, R23, R24) -/

/-- The mnemonics that write a register. -/
def Machine.Reg.writers : Reg → List String
  | .a => ["LDA", "TXA", "TYA", "AND"]
  | .x => ["LDX", "TAX", "TSX", "INX", "DEX"]
  | .y => ["LDY", "TAY", "INY", "DEY"]
  | .sp => ["TXS"]

/-- The mnemonics that use a register's byte, other than as an index. -/
def Machine.Reg.users : Reg → List String
  | .a => ["STA", "TAX", "TAY", "AND"]
  | .x => ["STX", "TXA", "TXS", "INX", "DEX"]
  | .y => ["STY", "TYA", "INY", "DEY"]
  | .sp => ["TSX"]

/-- The addressing modes that a register indexes (40_engine_addressing.md R88, R89, R91, R92). -/
def Machine.Reg.indexedModes : Reg → List AddrMode
  | .x => [.zeroPageX, .absoluteX]
  | .y => [.zeroPageY, .absoluteY]
  | .a | .sp => []

/-! ### What an instruction does -/

section InstrRules

variable {i : Instr} {q : Reg} (s : State)

theorem destReg_eq_iff : i.destReg = some q ↔ i.mnemonic ∈ q.writers := by
  cases q <;> cases i <;> simp [Instr.destReg, Instr.mnemonic, Reg.writers]

theorem source_eq_iff : i.shape.source = some q ↔ i.mnemonic ∈ q.users := by
  cases q <;> cases i <;> simp [Instr.shape, Shape.source, Instr.mnemonic, Reg.users]

/-- Only the register that indexes its mode enters an instruction's effective address. -/
theorem Instr.ea_setReg (h : i.mode ∉ q.indexedModes) (w : Byte) : i.ea (s.setReg q w) = i.ea s := by
  cases q with
  | a | sp => cases i <;> rfl
  | x | y => cases i <;> simp [Instr.mode, Reg.indexedModes] at h <;> rfl

theorem Instr.after_reg_of_destReg_ne (h : i.destReg ≠ some q) : (i.after s).reg q = s.reg q :=
  Shape.run_reg_of_dest_ne (i.destReg_eq ▸ h)

theorem Instr.resultByte_of_destReg (h : i.destReg = some q) (hq : q ≠ .sp) :
    i.resultByte s = some ((i.after s).reg q) := by
  rw [i.resultByte_eq]
  exact Shape.resultByte_of_dest (i.destReg_eq ▸ h) hq

/-- A destination register holds the result byte. -/
theorem Instr.after_reg_of_resultByte {v : Byte} (hd : i.destReg = some q) (hr : i.resultByte s = some v) :
    (i.after s).reg q = v := by
  have hq : q ≠ .sp := by
    rintro rfl
    cases i <;> cases hd
    cases hr
  exact Option.some.inj ((Instr.resultByte_of_destReg s hd hq).symm.trans hr)

/-- P after an instruction: `SetZN` of its result byte, or, without one, what a flag instruction writes. -/
theorem Instr.after_p_cases (i : Instr) (s : State) :
    (∃ v, i.resultByte s = some v ∧ (i.after s).p = (s.setZN v).p) ∨
      (i.resultByte s = none ∧ (i.after s).p = i.flagWrite s.p) := by
  rw [i.resultByte_eq, ← i.flagWrite_eq]
  cases h : i.shape.resultByte (i.ea s) s with
  | none => exact .inr ⟨rfl, Shape.p_run_of_no_resultByte h⟩
  | some v => exact .inl ⟨v, rfl, Shape.p_run_of_resultByte h⟩

/-- No instruction that writes a register is indexed by it. -/
theorem Instr.mode_not_mem_of_destReg (h : i.destReg = some q) : i.mode ∉ q.indexedModes := by
  cases i <;> cases h <;> simp [Instr.mode, Reg.indexedModes]

variable (q) in
/-- What a register holds beforehand changes nothing if the instruction overwrites it without using it. -/
theorem Instr.after_setReg_of_overwritten (hw : i.mnemonic ∈ q.writers) (hu : i.mnemonic ∉ q.users) (w : Byte) :
    i.after (s.setReg q w) = i.after s := by
  have hd : i.destReg = some q := destReg_eq_iff.2 hw
  rw [Instr.after, Instr.ea_setReg s (Instr.mode_not_mem_of_destReg hd)]
  exact Shape.run_setReg_of_overwritten (i.destReg_eq ▸ hd) (mt source_eq_iff.1 hu) w

variable (q) in
/-- A register that an instruction neither uses nor writes only passes through. -/
theorem Instr.after_setReg_restored (hw : i.mnemonic ∉ q.writers) (hu : i.mnemonic ∉ q.users)
    (hm : i.mode ∉ q.indexedModes) (w : Byte) : (i.after (s.setReg q w)).setReg q (s.reg q) = i.after s := by
  have hd : i.destReg ≠ some q := mt destReg_eq_iff.1 hw
  have pass : i.after (s.setReg q w) = (i.after s).setReg q w := by
    rw [Instr.after, Instr.ea_setReg s hm]
    exact Shape.run_setReg_of_unused (i.destReg_eq ▸ hd) (mt source_eq_iff.1 hu) w
  rw [pass, setReg_setReg_same, ← Instr.after_reg_of_destReg_ne s hd, setReg_reg_self]

theorem Instr.storeAddr_of_store (h : i.shape = .store q) : i.storeAddr s = some (i.ea s) := by
  cases i <;> cases h <;> rfl

/-- A store leaves its register at the address it stores to, where canonical memory reads it back. -/
theorem Instr.read_after_store (h : i.shape = .store q) :
    ∃ addr, i.storeAddr s = some addr ∧ (SafeState s → (i.after s).mem.read addr = s.reg q) := by
  refine ⟨i.ea s, Instr.storeAddr_of_store s h, fun hs => ?_⟩
  rw [Instr.after, h]
  exact Memory.read_write_same hs _ _

end InstrRules

/-! ### What a mnemonic or a mode says of an instruction -/

section Mnemonics

variable {i : Instr} {q : Reg} (s : State)

theorem shape_of_sta (h : i.mnemonic = "STA") : i.shape = .store .a := by
  revert h; cases i <;> simp [Instr.mnemonic, Instr.shape]

theorem shape_of_stx (h : i.mnemonic = "STX") : i.shape = .store .x := by
  revert h; cases i <;> simp [Instr.mnemonic, Instr.shape]

theorem shape_of_sty (h : i.mnemonic = "STY") : i.shape = .store .y := by
  revert h; cases i <;> simp [Instr.mnemonic, Instr.shape]

theorem exists_resultByte_iff : (∃ v, i.resultByte s = some v) ↔ i.mnemonic ∈ ["LDA", "LDX", "LDY", "TAX", "TAY",
    "TXA", "TYA", "TSX", "INC", "DEC", "INX", "INY", "DEX", "DEY", "AND"] := by
  cases i <;> simp [Instr.resultByte, Instr.mnemonic]

theorem resultByte_of_and {addr : Addr} (hm : i.mnemonic = "AND") (hd : i.dataReadAddr s = some addr) :
    i.resultByte s = some (s.a &&& s.mem.read addr) := by
  cases i <;> simp [Instr.mnemonic] at hm <;> cases hd <;> rfl

-- the operand of each indexed mode, and the address it gives
theorem ea_of_zeroPageX (h : i.mode = .zeroPageX) : ∃ nn, i.operandBytes = [nn] ∧ i.ea s = eaZpX nn s := by
  cases i <;> cases h <;> exact ⟨_, rfl, rfl⟩

theorem ea_of_zeroPageY (h : i.mode = .zeroPageY) : ∃ nn, i.operandBytes = [nn] ∧ i.ea s = eaZpY nn s := by
  cases i <;> cases h <;> exact ⟨_, rfl, rfl⟩

theorem ea_of_absoluteX (h : i.mode = .absoluteX) :
    ∃ w, i.operandBytes = [lowByte w, highByte w] ∧ i.ea s = eaAbsX w s := by
  cases i <;> cases h <;> exact ⟨_, rfl, rfl⟩

theorem ea_of_absoluteY (h : i.mode = .absoluteY) :
    ∃ w, i.operandBytes = [lowByte w, highByte w] ∧ i.ea s = eaAbsY w s := by
  cases i <;> cases h <;> exact ⟨_, rfl, rfl⟩

/-- An instruction of an indexed mode reads data at its effective address or stores there. -/
theorem accesses_ea_of_indexed (h : i.mode ∈ q.indexedModes) :
    i.dataReadAddr s = some (i.ea s) ∨ i.storeAddr s = some (i.ea s) := by
  revert h
  cases q <;> cases i <;>
    simp [Instr.mode, Reg.indexedModes, Instr.dataReadAddr, Instr.storeAddr, Instr.ea, reportEa]

end Mnemonics

/-- A enters no data address and no store address (10_state.md R23). -/
theorem addresses_setReg_a (i : Instr) (s : State) (v : Byte) :
    i.dataReadAddr (s.setReg .a v) = i.dataReadAddr s ∧ i.storeAddr (s.setReg .a v) = i.storeAddr s := by
  cases i <;> exact ⟨rfl, rfl⟩

/-! ### The status byte (10_state.md R27, R28, R34, R35, R36, R37) -/

/-- Settles O33: SetZN is two flag writes, and `getLsbD_setZN` reads their bits. -/
theorem setZnBits : Obligations.SetZnBits := by
  intro s v
  exact ⟨fun k _ => getLsbD_setZN s v k, State.eq_of_fields (by simp) (by simp) (by simp) (by simp) (by simp) rfl
    (by simp) (by simp) (by simp)⟩

/-- Settles O35: each flag of the view is HasFlag of a mask of one bit. -/
theorem inspectionShowsFlagsByName : Obligations.InspectionShowsFlagsByName := by
  intro s
  have bit (k : Nat) (hk : k < 8) := hasFlag_twoPow s hk
  exact ⟨inspectRegisters s, rfl, rfl, rfl, rfl, rfl, rfl, rfl,
    bit 0 (by decide), bit 1 (by decide), bit 2 (by decide), bit 3 (by decide), bit 4 (by decide), bit 6 (by decide),
    bit 7 (by decide), rfl, rfl, rfl, rfl, rfl, rfl, rfl⟩

/-- Carry after an instruction without a result byte. -/
theorem getLsbD_zero_flagWrite (i : Instr) (p : Byte) : (i.flagWrite p).getLsbD 0 =
    (if i = .sec then true else if i = .clc then false else p.getLsbD 0) := by
  unfold Instr.flagWrite
  split <;> simp_all [maskC, maskD, maskI, maskV]

/-- Settles O15: a result byte leaves Carry, and of the flag instructions SEC and CLC alone write it. -/
theorem carryIsWrittenBySecAndClcOnly : Obligations.CarryIsWrittenBySecAndClcOnly := by
  intro i s
  refine ⟨i.after s, exec_eq_after i s, ?_⟩
  rcases Instr.after_p_cases i s with ⟨v, hv, hp⟩ | ⟨-, hp⟩
  · have hsec : i ≠ .sec := by rintro rfl; cases hv
    have hclc : i ≠ .clc := by rintro rfl; cases hv
    rw [hp, getLsbD_setZN]
    simp [hsec, hclc]
  · rw [hp, getLsbD_zero_flagWrite]

/-- No flag instruction writes Zero or Negative. -/
theorem getLsbD_flagWrite_of_zn (i : Instr) (p : Byte) {k : Nat} (hk : k = 1 ∨ k = 7) :
    (i.flagWrite p).getLsbD k = p.getLsbD k := by
  unfold Instr.flagWrite
  rcases hk with rfl | rfl <;> split <;> simp [maskC, maskD, maskI, maskV]

/-- Settles O16: P is `SetZN` of the result byte, or, without one, what a flag instruction writes. -/
theorem zeroAndNegativeAreOfTheResultByte : Obligations.ZeroAndNegativeAreOfTheResultByte := by
  intro i s
  refine ⟨i.after s, exec_eq_after i s, fun v hv => ?_, fun hnone => ?_, exists_resultByte_iff s⟩
  · rcases Instr.after_p_cases i s with ⟨u, hu, hp⟩ | ⟨hnone, -⟩
    · obtain rfl : u = v := Option.some.inj (hu.symm.trans hv)
      rw [hp]
      exact ⟨getLsbD_setZN s u 1, getLsbD_setZN s u 7⟩
    · simp [hnone] at hv
  · rcases Instr.after_p_cases i s with ⟨u, hu, -⟩ | ⟨-, hp⟩
    · simp [hnone] at hu
    · rw [hp]
      exact ⟨getLsbD_flagWrite_of_zn i _ (.inl rfl), getLsbD_flagWrite_of_zn i _ (.inr rfl)⟩

/-- What a flag instruction makes of P is `SetFlags` or `ClearFlags` of its mask. -/
theorem flagWrite_cases (i : Instr) (p : Byte) : i.flagWrite p = p ∨
    (∃ mask ∈ [maskC, maskI, maskD], i.flagWrite p = p ||| mask) ∨
    (∃ mask ∈ [maskC, maskI, maskD, maskV], i.flagWrite p = p &&& ~~~mask) := by
  unfold Instr.flagWrite
  split <;> simp

/-- Settles O34: the primitives by their definitions, the instructions by `after_p_cases`. -/
theorem statusPrimitives : Obligations.StatusPrimitives := by
  refine ⟨fun s mask => ⟨rfl, ?_, hasFlag_iff s mask⟩, fun i s => ⟨i.after s, exec_eq_after i s, ?_⟩⟩
  · rw [State.clearFlags, show (0xFF : Byte) = BitVec.allOnes 8 from rfl, BitVec.and_allOnes]
  · rcases Instr.after_p_cases i s with ⟨v, -, hp⟩ | ⟨-, hp⟩
    · exact .inr (.inl ⟨v, hp⟩)
    · rw [hp]
      rcases flagWrite_cases i s.p with h | ⟨mask, hm, h⟩ | ⟨mask, hm, h⟩
      · exact .inl h
      · exact .inr (.inr (.inl ⟨mask, hm, h⟩))
      · exact .inr (.inr (.inr ⟨mask, hm, h⟩))

/-! ### The registers (10_state.md R23, R24) -/

/-- Settles O22: A is written exactly where it is the destination, and passes through where it is unused. -/
theorem accumulatorReadersAndWriters : Obligations.AccumulatorReadersAndWriters := by
  intro i s v
  refine ⟨i.after s, i.after (s.setReg .a v), exec_eq_after i s, exec_eq_after i _, fun h => ?_, fun h => ?_,
    fun h => ?_, fun h => ?_, fun h => Instr.read_after_store s (shape_of_sta h), ?_, ?_, ?_, fun addr hm hd => ?_,
    addresses_setReg_a i s v⟩
  · exact Instr.after_reg_of_destReg_ne (q := .a) s (mt destReg_eq_iff.1 h)
  · exact Instr.resultByte_of_destReg (q := .a) s (destReg_eq_iff.2 h) (by decide)
  · exact Instr.after_setReg_of_overwritten .a s (by grind [Reg.writers]) (by grind [Reg.users]) v
  · exact Instr.after_setReg_restored .a s (by grind [Reg.writers]) (by grind [Reg.users])
      (by grind [Reg.indexedModes]) v
  · rintro rfl; exact Instr.after_reg_of_resultByte s (q := .x) rfl rfl
  · rintro rfl; exact Instr.after_reg_of_resultByte s (q := .y) rfl rfl
  · rintro m rfl; exact Instr.after_reg_of_resultByte s (q := .a) rfl rfl
  · exact Instr.after_reg_of_resultByte s (q := .a) (destReg_eq_iff.2 (by simp [hm, Reg.writers]))
      (resultByte_of_and s hm hd)

theorem toNat_zext16 (b : Byte) : (zext16 b).toNat = b.toNat :=
  BitVec.toNat_setWidth_of_le (by decide)

/-- Settles O23: the rules of `after` for X and for Y, with the mnemonics and modes that use each. -/
theorem indexRegisterReadersAndWriters : Obligations.IndexRegisterReadersAndWriters := by
  refine ⟨fun i s v => ?_, fun i s v => ?_, fun s w nn => ?_, fun s r q v => ?_⟩
  · refine ⟨i.after s, i.after (s.setReg .x v), exec_eq_after i s, exec_eq_after i _, fun h => ?_, fun h => ?_,
      fun h => ?_, fun h hzp habs => ?_, fun h => Instr.read_after_store s (shape_of_stx h), ?_, ?_, ?_, ?_,
      fun h => ?_, fun h => ?_⟩
    · exact Instr.after_reg_of_destReg_ne (q := .x) s (mt destReg_eq_iff.1 h)
    · exact Instr.resultByte_of_destReg (q := .x) s (destReg_eq_iff.2 h) (by decide)
    · exact Instr.after_setReg_of_overwritten .x s (by grind [Reg.writers]) (by grind [Reg.users]) v
    · exact Instr.after_setReg_restored .x s (by grind [Reg.writers]) (by grind [Reg.users])
        (by grind [Reg.indexedModes]) v
    · rintro rfl; exact Instr.after_reg_of_resultByte s (q := .a) rfl rfl
    · rintro rfl; rfl
    · rintro rfl; exact Instr.after_reg_of_resultByte s (q := .x) rfl rfl
    · rintro rfl; exact Instr.after_reg_of_resultByte s (q := .x) rfl rfl
    · obtain ⟨nn, hop, hea⟩ := ea_of_zeroPageX s h
      exact ⟨nn, hop, hea ▸ accesses_ea_of_indexed s (q := .x) (by simp [h, Reg.indexedModes])⟩
    · obtain ⟨w, hop, hea⟩ := ea_of_absoluteX s h
      exact ⟨w, hop, hea ▸ accesses_ea_of_indexed s (q := .x) (by simp [h, Reg.indexedModes])⟩
  · refine ⟨i.after s, i.after (s.setReg .y v), exec_eq_after i s, exec_eq_after i _, fun h => ?_, fun h => ?_,
      fun h => ?_, fun h hzp habs => ?_, fun h => Instr.read_after_store s (shape_of_sty h), ?_, ?_, ?_,
      fun h => ?_, fun h => ?_⟩
    · exact Instr.after_reg_of_destReg_ne (q := .y) s (mt destReg_eq_iff.1 h)
    · exact Instr.resultByte_of_destReg (q := .y) s (destReg_eq_iff.2 h) (by decide)
    · exact Instr.after_setReg_of_overwritten .y s (by grind [Reg.writers]) (by grind [Reg.users]) v
    · exact Instr.after_setReg_restored .y s (by grind [Reg.writers]) (by grind [Reg.users])
        (by grind [Reg.indexedModes]) v
    · rintro rfl; exact Instr.after_reg_of_resultByte s (q := .a) rfl rfl
    · rintro rfl; exact Instr.after_reg_of_resultByte s (q := .y) rfl rfl
    · rintro rfl; exact Instr.after_reg_of_resultByte s (q := .y) rfl rfl
    · obtain ⟨nn, hop, hea⟩ := ea_of_zeroPageY s h
      exact ⟨nn, hop, hea ▸ accesses_ea_of_indexed s (q := .y) (by simp [h, Reg.indexedModes])⟩
    · obtain ⟨w, hop, hea⟩ := ea_of_absoluteY s h
      exact ⟨w, hop, hea ▸ accesses_ea_of_indexed s (q := .y) (by simp [h, Reg.indexedModes])⟩
  · refine ⟨?_, ?_, fun h => ?_, fun h => ?_⟩
    · rw [eaZpX, toNat_zext16, BitVec.toNat_add]
    · rw [eaZpY, toNat_zext16, BitVec.toNat_add]
    · rw [eaAbsX, BitVec.toNat_add_of_lt (by rwa [toNat_zext16]), toNat_zext16]
    · rw [eaAbsY, BitVec.toNat_add_of_lt (by rwa [toNat_zext16]), toNat_zext16]
  · exact ⟨by rw [reg_setReg, if_pos rfl], reg_setReg_of_ne s v⟩

end Sys2Proof

/-! The proofs on the memory interface of 20_memory.md. Writing back the byte an address already holds leaves canonical memory as it is; that writes are idempotent follows, since the first write makes the byte the one held. -/

namespace Sys2Proof.Machine

/-- Putting at a key the byte it already reads as changes nothing, in a canonical list of cells. -/
theorem Memory.insert_lookup_self (k : Nat) {m : Memory} (hlt : m.Pairwise (fun c d => c.1 < d.1))
    (hlisted : ∀ c ∈ m, c.2 ≠ Memory.unlisted) : Memory.insert k (Memory.lookup k m) m = m := by
  induction m with
  | nil => rfl
  | cons c rest ih =>
    obtain ⟨hc, hrest⟩ := List.pairwise_cons.1 hlt
    obtain ⟨hv, hlisted⟩ := List.forall_mem_cons.1 hlisted
    rcases Nat.lt_trichotomy k c.1 with hk | rfl | hk
    · have hne : ∀ d ∈ c :: rest, d.1 ≠ k :=
        List.forall_mem_cons.2 ⟨hk.ne', fun d hd => (hk.trans (hc d hd)).ne'⟩
      rw [Memory.lookup_of_forall_ne hne]
      simp [Memory.insert, Memory.consCell, hk]
    · simp [Memory.insert, Memory.lookup, Memory.consCell, hv]
    · simp [Memory.insert, Memory.lookup, hk.ne, hk.ne', hk.not_gt, ih hrest hlisted]

/-- Writing to an address the byte it already reads as changes nothing, in a canonical memory. -/
theorem Memory.write_read_self {m : Memory} (h : m.wf) (addr : Addr) : m.write addr (m.read addr) = m := by
  obtain ⟨hlt, hcells⟩ := Memory.wf_iff.1 h
  exact Memory.insert_lookup_self _ hlt fun c hc => (hcells c hc).2

/-- A second write of the same byte to the same address changes nothing (20_memory.md R47). -/
theorem Memory.write_write_same {m : Memory} (h : m.wf) (addr : Addr) (v : Byte) :
    (m.write addr v).write addr v = m.write addr v := by
  simpa only [Memory.read_write_same h] using Memory.write_read_self (Memory.wf_write h addr v) addr

end Sys2Proof.Machine

namespace Sys2Proof

open Machine

/-- Settles O24: it is the definition of `memRead`. -/
theorem memReadEffect : Obligations.MemReadEffect := fun _ _ => rfl

/-- Settles O25: the two laws of a read after a write, at the same and at another address. -/
theorem memWriteEffect : Obligations.MemWriteEffect := by
  intro s addr v hs
  refine ⟨fun b => ?_, memWrite_lastWrite .., rfl⟩
  rw [memWrite_mem]
  split
  · next hb => rw [hb, Memory.read_write_same hs]
  · next hb => exact Memory.read_write_other _ (Ne.symm hb) v

/-- Settles O26: a read leaves memory, and a second write of the same byte leaves the memory of the first. -/
theorem readsArePureAndWritesIdempotent : Obligations.ReadsArePureAndWritesIdempotent := by
  refine ⟨fun s addr => ⟨rfl, ?_⟩, fun s addr v hs => ?_⟩
  · simp only [memRead_value, memRead_state_mem]
  · have hmem := Memory.write_write_same hs addr v
    simp only [memWrite, hmem]

end Sys2Proof

/-! The proofs on the encoding of 30_encoding.md. One lemma says what the decoder answers on three bytes, whatever they are; another says that an operand word is its two bytes side by side, so that its value is the sum of their place values. -/

namespace Sys2Proof

open Machine

/-! ### The decoder on any three bytes (30_encoding.md R60, R69) -/

/-- Three bytes always suffice: the decoder answers what the dispatch table selects for them and leaves the bytes past its length. -/
theorem decode_three_bytes (op b1 b2 : Byte) (rest : List Byte) :
    decode (op :: b1 :: b2 :: rest) = .ok (dispatch op b1 b2, (op :: b1 :: b2 :: rest).drop (lengthOf op)) := by
  rcases lengthOf_cases op with h | h | h
  · simp [decode, h, dispatch_of_length_one h b1 b2]
  · simp [decode, h, dispatch_of_length_two h b1 b2]
  · simp [decode, h]

/-- Settles O3: the decoder by `decode_three_bytes`, the fetch by `fetchInstr_instr`, which reads PC and memory alone. -/
theorem decodingNeverFailsAndLengthIsByByteZero : Obligations.DecodingNeverFailsAndLengthIsByByteZero := by
  refine ⟨fun op b1 b2 rest => ?_, fun s t hpc hmem => ?_⟩
  · refine ⟨_, _, decode_three_bytes op b1 b2 rest, dispatch_length op b1 b2, ?_⟩
    rw [dispatch_length, List.length_drop]
    have hcases := lengthOf_cases op
    simp only [List.length_cons]
    omega
  · rw [fetchInstr_instr, fetchInstr_instr, hpc, hmem]

/-! ### Operand words (30_encoding.md R64) -/

/-- An operand word is its high byte followed by its low byte. -/
theorem wordOf_eq_append (hh ll : Byte) : wordOf hh ll = hh ++ ll := by
  rw [BitVec.append_def, BitVec.shiftLeftZeroExtend_eq, BitVec.setWidth'_eq]; rfl

/-- The value of an operand word: the two bytes share no bit, so OR is addition. -/
theorem toNat_wordOf (hh ll : Byte) : (wordOf hh ll).toNat = hh.toNat * 256 + ll.toNat := by
  rw [wordOf_eq_append, BitVec.toNat_append, ← Nat.shiftLeft_add_eq_or_of_lt ll.isLt, Nat.shiftLeft_eq]

/-- Settles O31: `fetchWord_eq` gives the word, `toNat_wordOf` its value. -/
theorem operandWordIsLittleEndian : Obligations.OperandWordIsLittleEndian := by
  intro s
  rw [fetchWord_eq]
  exact ⟨toNat_wordOf _ _, rfl⟩

end Sys2Proof

/-! The proofs on the engine and the addressing modes of 40_engine_addressing.md. That the diagnostic records influence nothing is an equation: with both records erased beforehand, every operation gives the same state up to the records. -/

namespace Sys2Proof.Machine

variable (s : State)

/-- The state with both diagnostic records erased (20_memory.md R56): `sameButDiagnostics s t` is `s.withoutRecords = t.withoutRecords`. -/
def State.withoutRecords : State := { s with lastRead := none, lastWrite := none }

theorem sameButDiagnostics_iff {s t : State} : sameButDiagnostics s t ↔ s.withoutRecords = t.withoutRecords := .rfl

/-! ### The operations that keep the records commute with erasing them -/

theorem reg_withoutRecords (r : Reg) : s.withoutRecords.reg r = s.reg r := reg_eq_of_fields rfl rfl rfl rfl r

theorem setReg_withoutRecords (r : Reg) (v : Byte) :
    s.withoutRecords.setReg r v = (s.setReg r v).withoutRecords := by
  cases r <;> rfl

theorem putFlag_withoutRecords (mask : Byte) (b : Bool) :
    s.withoutRecords.putFlag mask b = (s.putFlag mask b).withoutRecords := by
  cases b <;> rfl

theorem setZN_withoutRecords (v : Byte) : s.withoutRecords.setZN v = (s.setZN v).withoutRecords := by
  simp only [State.setZN, putFlag_withoutRecords]

theorem result_withoutRecords (r : Reg) (v : Byte) :
    result r v s.withoutRecords = (result r v s).withoutRecords := by
  simp only [result_eq, setReg_withoutRecords, setZN_withoutRecords]

end Sys2Proof.Machine

namespace Sys2Proof

open Machine

/-! ### Records erased before a step change nothing but records after it (40_engine_addressing.md R98) -/

theorem Shape.run_withoutRecords (sh : Shape) (ea : Addr) (s : State) :
    (sh.run ea s.withoutRecords).withoutRecords = (sh.run ea s).withoutRecords := by
  cases sh with
  | put => simp only [Shape.run, ← result_withoutRecords]; rfl
  | compute => simp only [Shape.run, reg_withoutRecords, ← result_withoutRecords]; rfl
  | load => simp only [Shape.run, load_eq, ← result_withoutRecords]; rfl
  | andMem => simp only [Shape.run, andMem_eq, ← result_withoutRecords]; rfl
  | modifyMem => simp only [Shape.run, modifyMem_eq, ← setZN_withoutRecords]; rfl
  | store => simp only [Shape.run, store_eq, reg_withoutRecords]; rfl
  | txs | status | jump | jumpInd => rfl

/-- No effective address, the target of JMP indirect included, depends on the records. -/
theorem Instr.ea_withoutRecords (i : Instr) (s : State) : i.ea s.withoutRecords = i.ea s := by
  cases i <;> rfl

theorem Instr.after_withoutRecords (i : Instr) (s : State) :
    (i.after s.withoutRecords).withoutRecords = (i.after s).withoutRecords := by
  rw [Instr.after, Instr.ea_withoutRecords]
  exact Shape.run_withoutRecords ..

/-- The state after a step: the fetched instruction, run on the state after the fetch. -/
def Machine.State.stepped (s : State) : State := (fetchInstr s).1.after (fetchInstr s).2

theorem step_eq_stepped (s : State) : step s = .next s.stepped := by
  rw [step_eq, exec_eq_after, State.stepped]

theorem fetchInstr_instr_withoutRecords (s : State) : (fetchInstr s.withoutRecords).1 = (fetchInstr s).1 := by
  rw [fetchInstr_instr, fetchInstr_instr]; rfl

theorem fetchInstr_state_withoutRecords (s : State) :
    (fetchInstr s.withoutRecords).2.withoutRecords = (fetchInstr s).2.withoutRecords := by
  rw [fetchInstr_state, fetchInstr_state]; rfl

theorem stepped_withoutRecords (s : State) : s.withoutRecords.stepped.withoutRecords = s.stepped.withoutRecords := by
  rw [State.stepped, fetchInstr_instr_withoutRecords, ← Instr.after_withoutRecords, fetchInstr_state_withoutRecords,
    Instr.after_withoutRecords, State.stepped]

/-- Settles O8: every instruction completes, and `stepped_withoutRecords` makes the next state one of registers and memory. -/
theorem stepIsTotalAndAFunctionOfRegistersAndMemory :
    Obligations.StepIsTotalAndAFunctionOfRegistersAndMemory := by
  refine ⟨fun s => ⟨s.stepped, step_eq_stepped s⟩, fun s t s' t' h hs ht => ?_⟩
  obtain rfl : s.stepped = s' := Host.Outcome.next.inj ((step_eq_stepped s).symm.trans hs)
  obtain rfl : t.stepped = t' := Host.Outcome.next.inj ((step_eq_stepped t).symm.trans ht)
  rw [sameButDiagnostics_iff] at h ⊢
  rw [← stepped_withoutRecords s, h, stepped_withoutRecords]

/-! ### Operand bytes and the zero-page modes (40_engine_addressing.md R83, R84, R87, R88, R89) -/

/-- The sum of an indexed zero-page mode wraps within the page. -/
theorem toNat_zext16_add (nn index : Byte) : (zext16 (nn + index)).toNat = (nn.toNat + index.toNat) % 256 := by
  rw [toNat_zext16, BitVec.toNat_add]

/-- Settles O36: the fetch leaves X and Y, so both address functions give the sum that `toNat_zext16_add` bounds. -/
theorem zeroPageAddresses : Obligations.ZeroPageAddresses := by
  intro s b s1 h
  obtain ⟨rfl, rfl⟩ := Prod.mk.inj ((fetchByte_eq s).symm.trans h)
  exact ⟨⟨_, rfl, rfl, toNat_zext16 _⟩, ⟨_, rfl, rfl, toNat_zext16_add _ _⟩, ⟨_, rfl, rfl, toNat_zext16_add _ _⟩⟩

/-- Settles O30: `fetchByte_eq` and `fetchWord_eq` say it, and PC + 1 as a number is a sum of words. -/
theorem fetchByteAndFetchWord : Obligations.FetchByteAndFetchWord := by
  refine ⟨fetchByte_eq, fun _ => rfl, fun s => ?_⟩
  rw [fetchByte_eq, fetchWord_eq]
  exact ⟨BitVec.toNat_add s.pc 1, rfl⟩

end Sys2Proof

/-! The proofs on the reset command of 70_reset_and_hazards.md. -/

namespace Sys2Proof.Machine

/-- The first reset leaves nothing for the second to change: what the command writes are constants, and what it keeps it keeps twice. -/
@[simp] theorem hostReset_hostReset (s : State) : hostReset (hostReset s) = hostReset s := rfl

end Sys2Proof.Machine

namespace Sys2Proof

open Machine

/-- Settles O52: `hostReset_hostReset`, and the field lemmas of the reset command. -/
theorem resetIsIdempotent : Obligations.ResetIsIdempotent := fun s =>
  ⟨hostReset_hostReset s, hostReset_pc s, hostReset_sp s, hostReset_a s, hostReset_x s, hostReset_y s, hostReset_p s⟩

end Sys2Proof

/-! The proofs that decoder and encoder are inverse (30_encoding.md). Both directions are one equivalence: the decoder answers an instruction exactly when it is well formed and its bytes stand at the head of the list. -/

namespace Sys2Proof

/-! ### The dispatch table read backwards (30_encoding.md R66, R67) -/

/-- What the dispatch table selects has the opcode byte and the operand bytes it was selected from. -/
theorem encode_dispatch (op b1 b2 : Byte) :
    encode (dispatch op b1 b2) = op :: [b1, b2].take (lengthOf op - 1) := by
  unfold lengthOf dispatch
  split <;> simp [encode, Instr.opcode, Instr.operandBytes, Instr.length, Instr.mode, AddrMode.length]

/-- The dispatch table gives no term that the core cannot fetch. -/
theorem wf_dispatch (op b1 b2 : Byte) : (dispatch op b1 b2).wf = true := by
  unfold dispatch
  split
  case h_62 => simp [Instr.wf, coreOpcodes]; and_intros <;> assumption
  all_goals rfl

/-- A well-formed instruction is what the dispatch table selects for its own bytes. -/
theorem dispatch_opcode_operandBytes {i : Instr} (h : i.wf = true) :
    dispatch i.opcode (i.operandBytes.getD 0 0) (i.operandBytes.getD 1 0) = i := by
  cases i with
  | unsupported op => exact dispatch_unsupported h ..
  | ldaAbs w | ldaAbsX w | ldaAbsY w | ldxAbs w | ldxAbsY w | ldyAbs w | ldyAbsX w | staAbs w | staAbsX w | staAbsY w
  | stxAbs w | styAbs w | incAbs w | incAbsX w | decAbs w | decAbsX w | andAbs w | andAbsX w | andAbsY w | jmpAbs w
  | jmpInd w =>
    conv_rhs => rw [← wordOf_bytes w]
    rfl
  | _ => rfl

/-- The decoder answers what the dispatch table selects for the first bytes, and the bytes after them. -/
theorem decode_eq_ok_iff_dispatch {bs rest : List Byte} {i : Instr} : decode bs = .ok (i, rest) ↔
    ∃ op b1 b2, dispatch op b1 b2 = i ∧ op :: [b1, b2].take (lengthOf op - 1) ++ rest = bs := by
  constructor
  · intro h
    unfold decode at h
    split at h
    · cases h
    · next op tail =>
      split at h
      · next hop => cases h; exact ⟨op, 0, 0, rfl, by simp [hop]⟩
      · next nn _ hop => cases h; exact ⟨op, nn, 0, rfl, by simp [hop]⟩
      · next ll hh _ hop => cases h; exact ⟨op, ll, hh, rfl, by simp [hop]⟩
      · cases h
  · rintro ⟨op, b1, b2, rfl, rfl⟩
    rcases lengthOf_cases op with h | h | h
    · simp [decode, h, dispatch_of_length_one h b1 b2]
    · simp [decode, h, dispatch_of_length_two h b1 b2]
    · simp [decode, h]

/-- The decoder answers exactly the well-formed instruction whose bytes stand first. -/
theorem decode_eq_ok_iff {bs rest : List Byte} {i : Instr} :
    decode bs = .ok (i, rest) ↔ encode i ++ rest = bs ∧ i.wf = true := by
  rw [decode_eq_ok_iff_dispatch]
  constructor
  · rintro ⟨op, b1, b2, rfl, rfl⟩
    exact ⟨by rw [encode_dispatch], wf_dispatch op b1 b2⟩
  · rintro ⟨rfl, h⟩
    have hi := dispatch_opcode_operandBytes h
    refine ⟨_, _, _, hi, ?_⟩
    rw [← encode_dispatch, hi]

/-- Settles O1: the equivalence `decode_eq_ok_iff`, from the bytes to the instruction. -/
theorem decodeOfEncode : Obligations.DecodeOfEncode := fun _ _ h =>
  decode_eq_ok_iff.2 ⟨rfl, h⟩

/-- Settles O2: the equivalence `decode_eq_ok_iff`, from the instruction to the bytes. -/
theorem encodeOfDecode : Obligations.EncodeOfDecode := fun _ _ _ h =>
  decode_eq_ok_iff.1 h

/-- Settles O4: each word is the encoding of its well-formed instruction. -/
theorem decodeWrittenOutWords : Obligations.DecodeWrittenOutWords := by
  refine ⟨?_, ?_, ?_, ?_, ?_, ?_, ?_, ?_, ?_⟩ <;> exact decode_eq_ok_iff.2 ⟨rfl, rfl⟩

/-! ### The unsupported bytes (30_encoding.md R67) -/

theorem opcode_dispatch (op b1 b2 : Byte) : (dispatch op b1 b2).opcode = op :=
  (List.cons.inj (encode_dispatch op b1 b2)).1

theorem wf_unsupported_iff {op : Byte} : (Instr.unsupported op).wf = true ↔ op ∉ coreOpcodes := by
  simp [Instr.wf]

/-- The unsupported handler is selected exactly outside the core set, with the opcode byte itself. -/
theorem dispatch_eq_unsupported_iff {op b1 b2 q : Byte} :
    dispatch op b1 b2 = .unsupported q ↔ q = op ∧ op ∉ coreOpcodes := by
  constructor
  · intro h
    obtain rfl : q = op := (congrArg Instr.opcode h).symm.trans (opcode_dispatch op b1 b2)
    exact ⟨rfl, wf_unsupported_iff.1 (h ▸ wf_dispatch q b1 b2)⟩
  · rintro ⟨rfl, h⟩
    exact dispatch_unsupported (wf_unsupported_iff.2 h) b1 b2

/-- Every byte outside the core set, in rising order. -/
def nonCoreOpcodes : List Byte :=
  (List.ofFn fun k : Fin 256 => (BitVec.ofFin k : Byte)).filter fun op => (Instr.unsupported op).wf

theorem mem_nonCoreOpcodes {op : Byte} : op ∈ nonCoreOpcodes ↔ op ∉ coreOpcodes := by
  rw [nonCoreOpcodes, List.mem_filter, wf_unsupported_iff, and_iff_right]
  exact List.mem_ofFn.2 ⟨op.toFin, rfl⟩

/-- Settles O5: `dispatch_eq_unsupported_iff`, and the listed bytes are those outside the core set. -/
theorem unsupportedBytesAreTheListedOnes : Obligations.UnsupportedBytesAreTheListedOnes := by
  intro op b1 b2
  refine ⟨?_, fun q h => (dispatch_eq_unsupported_iff.1 h).1⟩
  rw [dispatch_eq_unsupported_iff, and_iff_right rfl, ← mem_nonCoreOpcodes]
  exact Iff.of_eq (congrArg (op ∈ ·) (by decide +kernel))

end Sys2Proof

/-! The proofs that the step is the spec's protocol (40_engine_addressing.md R81). Behind the opcode fetch the model reads the operand bytes and then runs the meaning, and the protocol's handler does both; for each opcode byte the two are the same computation. -/

namespace Sys2Proof.Machine

/-- The part of `fetchInstr` behind the opcode fetch: the instruction that `op` selects for the operand bytes at PC. -/
def fetchOperands (op : Byte) (s : State) : Instr × State :=
  match lengthOf op with
  | 1 => (dispatch op 0 0, s)
  | 2 => (dispatch op (fetchByte s).1 0, (fetchByte s).2)
  | _ => (dispatch op (fetchByte s).1 (fetchByte (fetchByte s).2).1, (fetchByte (fetchByte s).2).2)

theorem fetchInstr_eq_fetchOperands (s : State) :
    fetchInstr s = fetchOperands (fetchByte s).1 (fetchByte s).2 := rfl

theorem fetchOperands_unsupported {op : Byte} (h : op ∉ coreOpcodes) (s : State) :
    fetchOperands op s = (.unsupported op, s) := by
  have hwf := wf_unsupported_iff.2 h
  simp only [fetchOperands, lengthOf_unsupported hwf, dispatch_unsupported hwf]

/-- The meaning of the instruction, after its operand fetches, is the handler that fetches its own operands. -/
theorem exec_fetchOperands (op : Byte) (s : State) :
    exec (fetchOperands op s).1 (fetchOperands op s).2 = .next (protoTable op s) := by
  unfold protoTable
  split
  case h_62 =>
    rw [fetchOperands_unsupported]
    · rfl
    · simp [coreOpcodes]; and_intros <;> assumption
  all_goals rfl

end Sys2Proof.Machine

namespace Sys2Proof

open Machine

/-- Settles O7: both sides fetch the opcode, and `exec_fetchOperands` compares what follows. -/
theorem stepIsTheSpecsProtocol : Obligations.StepIsTheSpecsProtocol := fun s => by
  rw [step_eq, fetchInstr_eq_fetchOperands, exec_fetchOperands]
  rfl

/-- Settles O6: the decoder on the three bytes at PC gives the fetched instruction. -/
theorem stepRunsDecodedInstruction : Obligations.StepRunsDecodedInstruction := by
  intro s i rest h
  rw [decode_three_bytes, ← fetchInstr_instr] at h
  obtain ⟨rfl, -⟩ := Prod.mk.inj (Except.ok.inj h)
  rw [step_eq, fetchInstr_state, fetchInstr_instr, dispatch_length]

/-- Settles O51: outside the core set the fetch ends behind the opcode, and the handler does nothing. -/
theorem unsupportedByteAdvancesPcByOne : Obligations.UnsupportedByteAdvancesPcByOne := by
  intro s h
  have hfetch : fetchInstr s = (.unsupported (s.mem.read s.pc), (fetchByte s).2) :=
    (fetchInstr_eq_fetchOperands s).trans (fetchOperands_unsupported h _)
  simp only [step_eq, stepReport, hfetch]
  exact ⟨rfl, rfl, rfl⟩

end Sys2Proof

/-! The proofs on what a step changes and what it leaves: registers and P (10_state.md), memory and the records (20_memory.md), PC (40_engine_addressing.md). Each is said once per `Shape`, tied to the instructions, and carried over the fetch. -/

namespace Sys2Proof

open Machine

/-! ### What a shape does to memory, PC and the records -/

/-- The byte a shape stores at its effective address. -/
def Shape.storedByte (ea : Addr) (s : State) : Shape → Option Byte
  | .store r => some (s.reg r)
  | .modifyMem f => some (f (s.mem.read ea))
  | .put _ _ | .load _ | .compute _ _ _ | .andMem | .txs | .status _ | .jump | .jumpInd _ => none

/-- The address of the last memory read that a shape makes. -/
def Shape.lastReadAddr (ea : Addr) : Shape → Option Addr
  | .load _ | .andMem | .modifyMem _ => some ea
  | .jumpInd ptr => some (ptr + 1)
  | .put _ _ | .compute _ _ _ | .store _ | .txs | .status _ | .jump => none

/-- The address a shape jumps to. -/
def Shape.target (ea : Addr) (s : State) : Shape → Option Addr
  | .jump => some ea
  | .jumpInd ptr => some (eaInd ptr s).1
  | .put _ _ | .load _ | .compute _ _ _ | .andMem | .modifyMem _ | .store _ | .txs | .status _ => none

section ShapeEffects

variable {sh : Shape} {s : State} {ea : Addr}

theorem Shape.run_mem : (sh.run ea s).mem = (sh.storedByte ea s).elim s.mem (s.mem.write ea) := by
  cases sh <;> simp [Shape.run, Shape.storedByte, load_eq, andMem_eq, modifyMem_eq, store_eq, eaInd_eq, result_frame]

theorem Shape.run_lastWrite :
    (sh.run ea s).lastWrite = if (sh.storedByte ea s).isSome then some ea else s.lastWrite := by
  cases sh <;> simp [Shape.run, Shape.storedByte, load_eq, andMem_eq, modifyMem_eq, store_eq, eaInd_eq, result_frame]

theorem Shape.run_lastRead : (sh.run ea s).lastRead = (sh.lastReadAddr ea).or s.lastRead := by
  cases sh <;> simp [Shape.run, Shape.lastReadAddr, load_eq, andMem_eq, modifyMem_eq, store_eq, eaInd_eq, result_frame]

theorem Shape.run_pc : (sh.run ea s).pc = (sh.target ea s).getD s.pc := by
  cases sh <;> simp [Shape.run, Shape.target, load_eq, andMem_eq, modifyMem_eq, store_eq, eaInd_eq, result_frame]

end ShapeEffects

/-! ### The same of an instruction -/

section InstrEffects

variable (i : Instr) (s : State)

theorem Instr.storeAddr_eq : i.storeAddr s = (i.shape.storedByte (i.ea s) s).map fun _ => i.ea s := by
  cases i <;> rfl

/-- The step report shows the byte that a shape stores. -/
theorem Instr.reportValue_of_storedByte {v : Byte} (h : i.shape.storedByte (i.ea s) s = some v) :
    reportValue i s = some v := by
  cases i <;> cases h <;> rfl

variable {i} in
/-- An instruction that stores writes the byte of its report at its store address, and nothing else of memory. -/
theorem Instr.after_mem_of_storeAddr {addr : Addr} (h : i.storeAddr s = some addr) :
    ∃ v, reportValue i s = some v ∧ (i.after s).mem = s.mem.write addr v := by
  rw [i.storeAddr_eq] at h
  obtain ⟨v, hv, rfl⟩ := Option.map_eq_some_iff.1 h
  refine ⟨v, i.reportValue_of_storedByte s hv, ?_⟩
  rw [Instr.after, Shape.run_mem, hv, Option.elim_some]

variable {i} in
theorem Instr.after_mem_of_no_storeAddr (h : i.storeAddr s = none) : (i.after s).mem = s.mem := by
  rw [i.storeAddr_eq, Option.map_eq_none_iff] at h
  rw [Instr.after, Shape.run_mem, h, Option.elim_none]

/-- Whatever an instruction stores, memory stays canonical. -/
theorem Instr.wf_after (h : SafeState s) : SafeState (i.after s) := by
  cases hi : i.storeAddr s with
  | none => rwa [SafeState, Instr.after_mem_of_no_storeAddr s hi]
  | some addr =>
    obtain ⟨v, -, hm⟩ := Instr.after_mem_of_storeAddr s hi
    rw [SafeState, hm]
    exact Memory.wf_write h addr v

theorem Instr.after_lastWrite : (i.after s).lastWrite = (i.storeAddr s).or s.lastWrite := by
  rw [Instr.after, Shape.run_lastWrite, i.storeAddr_eq]
  cases i.shape.storedByte (i.ea s) s <;> rfl

theorem Instr.after_lastRead : (i.after s).lastRead = (i.shape.lastReadAddr (i.ea s)).or s.lastRead :=
  Shape.run_lastRead

variable {i} in
theorem Instr.after_pc_of_not_jump (h : i.isJump = false) : (i.after s).pc = s.pc := by
  have htarget : i.shape.target (i.ea s) s = none := by cases i <;> cases h <;> rfl
  rw [Instr.after, Shape.run_pc, htarget, Option.getD_none]

end InstrEffects

/-! ### The same of a step -/

section StepEffects

variable (i : Instr) (n : Nat) (s : State)

-- the fetch changes PC and `last_read`, and no address and no byte of an instruction depends on them
@[simp] theorem Instr.storeAddr_afterFetch : i.storeAddr (afterFetch n s) = i.storeAddr s := by cases i <;> rfl
@[simp] theorem Instr.dataReadAddr_afterFetch : i.dataReadAddr (afterFetch n s) = i.dataReadAddr s := by cases i <;> rfl
@[simp] theorem reportEa_afterFetch : reportEa i (afterFetch n s) = reportEa i s := by cases i <;> rfl
@[simp] theorem reportValue_afterFetch : reportValue i (afterFetch n s) = reportValue i s := by cases i <;> rfl

/-- The fetch ends behind the instruction fetched. -/
theorem fetchInstr_snd : (fetchInstr s).2 = afterFetch (fetchInstr s).1.length s := by
  rw [fetchInstr_state, fetchInstr_instr, dispatch_length]

theorem stepped_eq : s.stepped = (fetchInstr s).1.after (afterFetch (fetchInstr s).1.length s) := by
  rw [State.stepped, fetchInstr_snd]

/-- What the step answers is the one state `stepped`. -/
theorem step_eq_next_iff {s t : State} : step s = .next t ↔ s.stepped = t := by
  rw [step_eq_stepped, Host.Outcome.next.injEq]

theorem stepped_mem_of_storeAddr {addr : Addr} (h : (fetchInstr s).1.storeAddr s = some addr) :
    ∃ v, reportValue (fetchInstr s).1 s = some v ∧ s.stepped.mem = s.mem.write addr v := by
  simpa [stepped_eq] using Instr.after_mem_of_storeAddr (afterFetch (fetchInstr s).1.length s) (by simpa using h)

theorem wf_stepped {s : State} (h : SafeState s) : SafeState s.stepped := by
  rw [stepped_eq]
  exact Instr.wf_after _ _ h

end StepEffects

/-! ### Registers and memory -/

/-- Settles O11: `wf_stepped`. -/
theorem stepKeepsMemoryCanonical : Obligations.StepKeepsMemoryCanonical := by
  intro s t hs h
  rw [← step_eq_next_iff.1 h]
  exact wf_stepped hs

/-- Settles O18: a shape leaves every register but its destination. -/
theorem registerFrame : Obligations.RegisterFrame := fun i s =>
  ⟨i.after s, exec_eq_after i s, fun _ h => Instr.after_reg_of_destReg_ne s h⟩

/-- The byte stored is the source register, or the byte there counted up or down. -/
theorem reportValue_of_storeAddr {i : Instr} {s : State} {addr : Addr} (h : i.storeAddr s = some addr) :
    reportValue i s = some (if i.mnemonic = "STA" then s.a else if i.mnemonic = "STX" then s.x
      else if i.mnemonic = "STY" then s.y else if i.mnemonic = "INC" then s.mem.read addr + 1
      else s.mem.read addr - 1) := by
  cases i <;> cases h <;> simp [reportValue, Instr.mnemonic, inc, dec_eq_sub_one]

theorem exists_storeAddr_iff (i : Instr) (s : State) :
    (∃ addr, i.storeAddr s = some addr) ↔ i.mnemonic ∈ ["STA", "STX", "STY", "INC", "DEC"] := by
  cases i <;> simp [Instr.storeAddr, Instr.mnemonic]

/-- Settles O20: memory after a storing instruction is one write of the byte its report shows. -/
theorem memoryFrameAndStoredByte : Obligations.MemoryFrameAndStoredByte := by
  intro i s
  refine ⟨i.after s, exec_eq_after i s, fun addr h => ?_, fun h b => ?_, exists_storeAddr_iff i s⟩
  · obtain ⟨v, hv, hm⟩ := Instr.after_mem_of_storeAddr s h
    rw [hm]
    refine ⟨fun b hb => Memory.read_write_other _ hb.symm v, fun hs => ?_⟩
    rw [Memory.read_write_same hs]
    exact Option.some.inj (hv.symm.trans (reportValue_of_storeAddr h))
  · rw [Instr.after_mem_of_no_storeAddr s h]

/-- Settles O32: a fetch reads the byte that the write before it put there, by `stepped_mem_of_storeAddr` for a step. -/
theorem fetchSeesEveryEarlierWrite : Obligations.FetchSeesEveryEarlierWrite := by
  refine ⟨fun s addr v hs => Memory.read_write_same hs addr v, fun s t addr v hs ht haddr hv => ?_⟩
  obtain ⟨u, hu, hm⟩ := stepped_mem_of_storeAddr s haddr
  obtain rfl : u = v := Option.some.inj (hu.symm.trans hv)
  rw [fetchByte_eq, ← step_eq_next_iff.1 ht]
  show s.stepped.mem.read addr = u
  rw [hm, Memory.read_write_same hs]

/-- Settles O21: PC and the records after the fetch, and what the shape of the instruction then makes of them. -/
theorem pcAndRecordsAfterStep : Obligations.PcAndRecordsAfterStep := by
  intro s
  refine ⟨s.stepped, step_eq_stepped s, ?_⟩
  rw [stepped_eq]
  generalize (fetchInstr s).1 = i
  refine ⟨fun h => Instr.after_pc_of_not_jump _ h, ?_, ?_, ?_, ?_⟩
  · rintro w rfl; rfl
  · rintro ptr rfl; rfl
  · rw [Instr.after_lastRead]
    cases i <;> rfl
  · rw [Instr.after_lastWrite, Instr.storeAddr_afterFetch]
    cases i.storeAddr s <;> rfl

end Sys2Proof

/-! The proofs on the status byte and on what does not influence a step (10_state.md). Bits 1 and 7 apart, P after an instruction is what a flag instruction makes of it; and erasing P, or SP, before an instruction gives the same state with P, or SP, erased. -/

namespace Sys2Proof

open Machine

/-! ### P, bit by bit (10_state.md R26, R29, R30, R31, R32, R33) -/

section Status

variable {i : Instr} {s : State} {k : Nat}

/-- An instruction that sets Zero and Negative is no flag instruction. -/
theorem flagWrite_of_resultByte {v : Byte} (h : i.resultByte s = some v) (p : Byte) : i.flagWrite p = p := by
  cases i <;> cases h <;> rfl

theorem statusMask_of_resultByte {v : Byte} (h : i.resultByte s = some v) : i.statusMask = 0x82 := by
  cases i <;> cases h <;> rfl

/-- Bits 1 and 7 apart, what an instruction does to P is what a flag instruction does. -/
theorem getLsbD_after_p (hz : k ≠ 1) (hn : k ≠ 7) : (i.after s).p.getLsbD k = (i.flagWrite s.p).getLsbD k := by
  rcases Instr.after_p_cases i s with ⟨v, hv, hp⟩ | ⟨-, hp⟩
  · rw [hp, getLsbD_setZN, if_neg hz, if_neg hn, flagWrite_of_resultByte hv]
  · rw [hp]

/-- InterruptDisable, Decimal and Overflow after an instruction without a result byte. -/
theorem getLsbD_flagWrite_idv (i : Instr) (p : Byte) :
    (i.flagWrite p).getLsbD 2 = (if i = .sei then true else if i = .cli then false else p.getLsbD 2) ∧
    (i.flagWrite p).getLsbD 3 = (if i = .sed then true else if i = .cld then false else p.getLsbD 3) ∧
    (i.flagWrite p).getLsbD 6 = (if i = .clv then false else p.getLsbD 6) := by
  unfold Instr.flagWrite
  split <;> simp_all [maskC, maskD, maskI, maskV]

/-- A flag instruction keeps every bit outside its mask. -/
theorem getLsbD_flagWrite_of_statusMask {p : Byte} (h : i.statusMask.getLsbD k = false) :
    (i.flagWrite p).getLsbD k = p.getLsbD k := by
  have set (mask : Byte) (hm : mask.getLsbD k = false) : (p ||| mask).getLsbD k = p.getLsbD k := by simp [hm]
  have clear (mask : Byte) (hm : mask.getLsbD k = false) : (p &&& ~~~mask).getLsbD k = p.getLsbD k := by
    simpa [hm] using BitVec.lt_of_getLsbD
  cases i
  case sec | sed | sei => exact set _ h
  case clc | cld | cli | clv => exact clear _ h
  all_goals rfl

/-- An instruction keeps every bit of P outside its mask. -/
theorem getLsbD_after_p_of_statusMask (h : i.statusMask.getLsbD k = false) :
    (i.after s).p.getLsbD k = s.p.getLsbD k := by
  rcases Instr.after_p_cases i s with ⟨v, hv, hp⟩ | ⟨-, hp⟩
  · rw [statusMask_of_resultByte hv] at h
    have hz : k ≠ 1 := by rintro rfl; cases h
    have hn : k ≠ 7 := by rintro rfl; cases h
    rw [hp, getLsbD_setZN, if_neg hz, if_neg hn]
  · rw [hp, getLsbD_flagWrite_of_statusMask h]

/-- No instruction has Break or bit 5 in its mask. -/
theorem statusMask_break_bit5 (i : Instr) : i.statusMask.getLsbD 4 = false ∧ i.statusMask.getLsbD 5 = false := by
  cases i <;> simp [Instr.statusMask]

end Status

/-- Settles O17: a result byte leaves the three flags, and the flag instructions write them as `getLsbD_flagWrite_idv` says. -/
theorem interruptDisableDecimalAndOverflowWriters : Obligations.InterruptDisableDecimalAndOverflowWriters := by
  intro i s
  refine ⟨i.after s, exec_eq_after i s, ?_⟩
  rw [getLsbD_after_p (by decide) (by decide), getLsbD_after_p (by decide) (by decide),
    getLsbD_after_p (by decide) (by decide)]
  exact getLsbD_flagWrite_idv i s.p

/-- Settles O19: `getLsbD_after_p_of_statusMask`. -/
theorem statusFrame : Obligations.StatusFrame := fun i s =>
  ⟨i.after s, exec_eq_after i s, fun _ h => getLsbD_after_p_of_statusMask h⟩

/-- Bits 4, 5 and 6 of a byte, masked out. -/
theorem and_0x70_eq_zero_iff {p : Byte} :
    p &&& 0x70 = 0 ↔ p.getLsbD 4 = false ∧ p.getLsbD 5 = false ∧ p.getLsbD 6 = false := by
  revert p; decide

/-- No step writes Break or bit 5, and none sets Overflow. -/
theorem stepped_break_bit5_overflow (s : State) :
    s.stepped.p.getLsbD 4 = s.p.getLsbD 4 ∧ s.stepped.p.getLsbD 5 = s.p.getLsbD 5 ∧
      (s.stepped.p.getLsbD 6 = true → s.p.getLsbD 6 = true) := by
  rw [stepped_eq]
  obtain ⟨hbreak, hbit5⟩ := statusMask_break_bit5 (fetchInstr s).1
  refine ⟨getLsbD_after_p_of_statusMask hbreak, getLsbD_after_p_of_statusMask hbit5, fun h => ?_⟩
  obtain ⟨-, -, hoverflow⟩ := getLsbD_flagWrite_idv (fetchInstr s).1 s.p
  rw [getLsbD_after_p (by decide) (by decide), afterFetch_p, hoverflow] at h
  split at h
  · cases h
  · exact h

/-- Settles O14: `stepped_break_bit5_overflow`, and the mask 0x70 is its three bits. -/
theorem breakBitFiveAndOverflowAreNeverSet : Obligations.BreakBitFiveAndOverflowAreNeverSet := by
  refine ⟨fun s t h => step_eq_next_iff.1 h ▸ stepped_break_bit5_overflow s, fun s t hs h => ?_⟩
  obtain ⟨h4, h5, h6⟩ := stepped_break_bit5_overflow s
  obtain ⟨hs4, hs5, hs6⟩ := and_0x70_eq_zero_iff.1 hs
  rw [← step_eq_next_iff.1 h, and_0x70_eq_zero_iff, h4, h5]
  exact ⟨hs4, hs5, Bool.eq_false_iff.2 fun hv => Bool.eq_false_iff.1 hs6 (h6 hv)⟩

/-! ### P influences nothing but P (10_state.md R26) -/

/-- The fetch reads PC and memory, and whatever else is changed beforehand only passes through. -/
theorem fetchInstr_map (f : State → State) {s : State} (hpc : (f s).pc = s.pc) (hmem : (f s).mem = s.mem)
    (hf : ∀ n, afterFetch n (f s) = f (afterFetch n s)) :
    fetchInstr (f s) = ((fetchInstr s).1, f (fetchInstr s).2) := by
  refine Prod.ext ?_ ?_
  · rw [fetchInstr_instr, fetchInstr_instr, hpc, hmem]
  · rw [fetchInstr_state, fetchInstr_state, hpc, hmem, hf]

/-- The state with P erased: `sameButStatus s t` is `s.withoutStatus = t.withoutStatus`. -/
def Machine.State.withoutStatus (s : State) : State := { s with p := 0 }

theorem sameButStatus_iff {s t : State} : sameButStatus s t ↔ s.withoutStatus = t.withoutStatus := .rfl

theorem setZN_withoutStatus (s : State) (v : Byte) : (s.setZN v).withoutStatus = s.withoutStatus :=
  State.eq_of_fields (setZN_pc s v) (setZN_sp s v) (setZN_a s v) (setZN_x s v) (setZN_y s v) rfl (setZN_mem s v)
    (setZN_lastRead s v) (setZN_lastWrite s v)

theorem result_withoutStatus (r : Reg) (v : Byte) (s : State) :
    (result r v s).withoutStatus = s.withoutStatus.setReg r v := by
  rw [result_eq, setZN_withoutStatus]
  cases r <;> rfl

theorem Shape.run_withoutStatus (sh : Shape) (ea : Addr) (s : State) :
    (sh.run ea s.withoutStatus).withoutStatus = (sh.run ea s).withoutStatus := by
  cases sh with
  | put | load | andMem => simp only [Shape.run, load_eq, andMem_eq, result_withoutStatus]; rfl
  | compute f src => cases src <;> simp only [Shape.run, result_withoutStatus] <;> rfl
  | modifyMem => simp only [Shape.run, modifyMem_eq, setZN_withoutStatus]; rfl
  | store r => cases r <;> rfl
  | txs | status | jump | jumpInd => rfl

theorem Instr.ea_withoutStatus (i : Instr) (s : State) : i.ea s.withoutStatus = i.ea s := by
  cases i <;> rfl

theorem Instr.after_withoutStatus (i : Instr) (s : State) :
    (i.after s.withoutStatus).withoutStatus = (i.after s).withoutStatus := by
  rw [Instr.after, Instr.ea_withoutStatus]
  exact Shape.run_withoutStatus ..

theorem fetchInstr_withoutStatus (s : State) :
    fetchInstr s.withoutStatus = ((fetchInstr s).1, (fetchInstr s).2.withoutStatus) :=
  fetchInstr_map State.withoutStatus rfl rfl fun _ => rfl

theorem stepped_withoutStatus (s : State) : s.withoutStatus.stepped.withoutStatus = s.stepped.withoutStatus := by
  rw [State.stepped, fetchInstr_withoutStatus, Instr.after_withoutStatus, State.stepped]

/-- Settles O9: the next state with P erased is that of the state with P erased. -/
theorem statusNeverInfluencesAnythingElse : Obligations.StatusNeverInfluencesAnythingElse := by
  intro s t h
  refine ⟨s.stepped, t.stepped, step_eq_stepped s, step_eq_stepped t, ?_⟩
  rw [sameButStatus_iff] at h ⊢
  rw [← stepped_withoutStatus s, h, stepped_withoutStatus]

/-! ### SP (10_state.md R22) -/

/-- The state with SP erased: `sameButSp s t` is `s.withoutSp = t.withoutSp`. -/
def Machine.State.withoutSp (s : State) : State := s.setReg .sp 0

theorem sameButSp_iff {s t : State} : sameButSp s t ↔ s.withoutSp = t.withoutSp := .rfl

/-- TXS overwrites SP, and every instruction other than TSX lets it pass through. -/
theorem Instr.after_withoutSp {i : Instr} (h : i ≠ .tsx) (s : State) :
    (i.after s.withoutSp).withoutSp = (i.after s).withoutSp := by
  have hread : i.mnemonic ∉ Reg.sp.users := by
    rw [← source_eq_iff]; cases i <;> simp [Instr.shape, Shape.source] at h ⊢
  by_cases hwrite : i.mnemonic ∈ Reg.sp.writers
  · exact congrArg State.withoutSp (Instr.after_setReg_of_overwritten .sp s hwrite hread 0)
  · rw [← Instr.after_setReg_restored .sp s hwrite hread List.not_mem_nil 0]
    exact (setReg_setReg_same ..).symm

theorem fetchInstr_withoutSp (s : State) :
    fetchInstr s.withoutSp = ((fetchInstr s).1, (fetchInstr s).2.withoutSp) :=
  fetchInstr_map State.withoutSp rfl rfl fun _ => rfl

theorem stepped_withoutSp {s : State} (h : (fetchInstr s).1 ≠ .tsx) :
    s.withoutSp.stepped.withoutSp = s.stepped.withoutSp := by
  rw [State.stepped, fetchInstr_withoutSp, Instr.after_withoutSp h, State.stepped]

/-- Settles O10: SP is the destination of TXS alone, and `stepped_withoutSp` for the two runs, which fetch the same instruction. -/
theorem stackPointerIsWrittenByTxsAndReadByTsxOnly :
    Obligations.StackPointerIsWrittenByTxsAndReadByTsxOnly := by
  refine ⟨fun s => ⟨s.stepped, step_eq_stepped s, fun h => ?_⟩, fun s t h hs => ?_⟩
  · rw [stepped_eq]
    refine Instr.after_reg_of_destReg_ne (q := .sp) _ fun hd => h ?_
    revert hd
    cases (fetchInstr s).1 <;> simp [Instr.destReg]
  · refine ⟨s.stepped, t.stepped, step_eq_stepped s, step_eq_stepped t, ?_⟩
    rw [sameButSp_iff] at h ⊢
    have ht : (fetchInstr t).1 ≠ .tsx := by
      have hsame := congrArg (fun u => (fetchInstr u).1) h
      simp only [fetchInstr_withoutSp] at hsame
      rwa [← hsame]
    rw [← stepped_withoutSp hs, h, stepped_withoutSp ht]

end Sys2Proof

/-! The proofs on memory as a whole and on the host's commands (20_memory.md, 70_reset_and_hazards.md). The cells of a canonical memory are its non-zero reads, which gives both that reads determine it and what the memory of a launch image reads. -/

namespace Sys2Proof.Machine

/-! ### The cells of a memory and what it reads -/

theorem Memory.lookup_of_mem {m : Memory} (h : m.Pairwise (fun c d => c.1 < d.1)) {c : Host.Cell} (hc : c ∈ m) :
    Memory.lookup c.1 m = c.2 := by
  induction m with
  | nil => cases hc
  | cons d rest ih =>
    obtain ⟨hlt, hrest⟩ := List.pairwise_cons.1 h
    rcases List.mem_cons.1 hc with rfl | hc
    · simp [Memory.lookup]
    · simp [Memory.lookup, (hlt c hc).ne, ih hrest hc]

/-- A byte that differs from the unlisted byte is listed. -/
theorem Memory.mem_of_lookup_ne {m : Memory} {k : Nat} (h : Memory.lookup k m ≠ Memory.unlisted) :
    (k, Memory.lookup k m) ∈ m := by
  induction m with
  | nil => exact absurd rfl h
  | cons d rest ih =>
    by_cases hd : d.1 = k
    · simp [Memory.lookup, ← hd]
    · simp only [Memory.lookup, if_neg hd] at h ⊢
      exact List.mem_cons_of_mem _ (ih h)

/-- The cells of a canonical memory are the addresses that read as another byte than the unlisted one, with that byte. -/
theorem Memory.mem_iff_read {m : Memory} (h : m.wf) (c : Host.Cell) :
    c ∈ m ↔ ∃ addr : Addr, m.read addr ≠ Memory.unlisted ∧ (addr.toNat, m.read addr) = c := by
  obtain ⟨hlt, hcells⟩ := Memory.wf_iff.1 h
  constructor
  · intro hc
    obtain ⟨hsize, hv⟩ := hcells c hc
    have hk : (BitVec.ofNat 16 c.1).toNat = c.1 := (BitVec.toNat_ofNat ..).trans (Nat.mod_eq_of_lt hsize)
    have hread : m.read (BitVec.ofNat 16 c.1) = c.2 := by rw [Memory.read, hk, Memory.lookup_of_mem hlt hc]
    exact ⟨_, hread ▸ hv, Prod.ext hk hread⟩
  · rintro ⟨addr, hv, rfl⟩
    exact Memory.mem_of_lookup_ne hv

/-- The cells of a launch image are its bytes that differ from the unlisted byte. -/
theorem Memory.mem_ofImage_iff (mem0 : Config.LaunchImage) (c : Host.Cell) :
    c ∈ Memory.ofImage mem0 ↔ ∃ addr : Addr, mem0 addr ≠ Memory.unlisted ∧ (addr.toNat, mem0 addr) = c := by
  simp only [Memory.ofImage, List.mem_filterMap, List.mem_range, Option.ite_none_left_eq_some, Option.some.injEq]
  constructor
  · rintro ⟨k, hk, hv, rfl⟩
    exact ⟨_, hv, Prod.ext ((BitVec.toNat_ofNat ..).trans (Nat.mod_eq_of_lt hk)) rfl⟩
  · rintro ⟨addr, hv, rfl⟩
    exact ⟨addr.toNat, addr.isLt, by simpa using hv, by simp⟩

/-- The memory of a launch image reads as the image. -/
theorem Memory.read_ofImage (mem0 : Config.LaunchImage) (addr : Addr) :
    (Memory.ofImage mem0).read addr = mem0 addr := by
  by_cases h : mem0 addr = Memory.unlisted
  · rw [h]
    refine Memory.lookup_of_forall_ne fun c hc hk => ?_
    obtain ⟨b, hv, rfl⟩ := (Memory.mem_ofImage_iff mem0 c).1 hc
    exact hv (BitVec.eq_of_toNat_eq hk ▸ h)
  · have hc := (Memory.mem_ofImage_iff mem0 _).2 ⟨addr, h, rfl⟩
    rw [Memory.read, Memory.lookup_of_mem (Memory.wf_iff.1 (Memory.wf_ofImage mem0)).1 hc]

/-! ### `run(n)` (40_engine_addressing.md R82) -/

/-- `run(n)` answers the n-th iterate of the step, with the report of each state on the way. -/
theorem run_eq (n : Nat) (s : State) :
    run n s = .next (State.stepped^[n] s, (List.iterate State.stepped s n).map stepReport) := by
  induction n generalizing s with
  | zero => rfl
  | succ n ih => simp only [run, step_eq_stepped, ih]; rfl

/-- `n` steps of the core, without the reports. -/
theorem core_run_eq (n : Nat) (s : State) : Host.Core.run core n s = .next (State.stepped^[n] s) := by
  induction n generalizing s with
  | zero => rfl
  | succ n ih =>
    simp only [Host.Core.run]
    rw [show core.step s = .next s.stepped from step_eq_stepped s]
    exact ih s.stepped

theorem wf_iterate_stepped {s : State} (h : SafeState s) (n : Nat) : SafeState (State.stepped^[n] s) := by
  induction n generalizing s with
  | zero => exact h
  | succ n ih => exact ih (wf_stepped h)

end Sys2Proof.Machine

namespace Sys2Proof

open Machine

/-- Settles O27: by `Memory.mem_iff_read` the two lists have the same cells, and both are sorted. -/
theorem memoriesThatReadEqualAreEqual : Obligations.MemoriesThatReadEqualAreEqual := by
  intro m n hm hn h
  have irrefl : Std.Irrefl fun c d : Host.Cell => c.1 < d.1 := ⟨fun c => lt_irrefl c.1⟩
  refine (Memory.wf_iff.1 hm).1.eq_of_mem_iff (Memory.wf_iff.1 hn).1 fun c => ?_
  rw [Memory.mem_iff_read hm, Memory.mem_iff_read hn]
  simp only [h]

/-- Settles O28: `Memory.read_ofImage`; the other fields are those of `State.reset`. -/
theorem powerUpHoldsTheLaunchImage : Obligations.PowerUpHoldsTheLaunchImage := fun mem0 =>
  ⟨fun addr => (congrArg (Memory.read · addr) (powerUp_mem mem0)).trans (Memory.read_ofImage mem0 addr), rfl⟩

/-- Settles O29: the image of zeros lists no cell, since its memory reads as the empty one. -/
theorem resetIsPowerUpWithTheZeroImage : Obligations.ResetIsPowerUpWithTheZeroImage := by
  have hmem : Memory.ofImage (fun _ => 0x00) = [] :=
    memoriesThatReadEqualAreEqual _ _ (Memory.wf_ofImage _) Memory.wf_nil fun addr => Memory.read_ofImage _ addr
  rw [Obligations.ResetIsPowerUpWithTheZeroImage, State.powerUp, hmem]
  rfl

/-- Settles O12: reset's fields, and the empty memory is canonical. -/
theorem resetStateIsSafeAndZero : Obligations.ResetStateIsSafeAndZero :=
  ⟨wf_reset, rfl, rfl, rfl, rfl, rfl, rfl, rfl, rfl⟩

/-- Settles O13: the commands that change memory write one byte or run the step. -/
theorem everyHostCommandCompletesAndKeepsSafety : Obligations.EveryHostCommandCompletesAndKeepsSafety := by
  intro c s hs
  cases c with
  | reset => exact ⟨_, _, rfl, hs⟩
  | write addr v => exact ⟨_, _, rfl, wf_memWrite hs addr v⟩
  | step => exact ⟨s.stepped, _, by rw [hostCommand, step_eq_stepped], wf_stepped hs⟩
  | run n => exact ⟨State.stepped^[n] s, _, by rw [hostCommand, run_eq], wf_iterate_stepped hs n⟩
  | inspectRegisters | peek | inspectDiagnostics => exact ⟨s, _, rfl, hs⟩

/-- Settles O53: it is the definition of the command. -/
theorem resetCommandKeepsMemoryAndRecords : Obligations.ResetCommandKeepsMemoryAndRecords := fun _ => rfl

/-- Settles O54: `run_eq` and `core_run_eq`, and the iterates of a sum of counts. -/
theorem runIsNStepsWithNReports : Obligations.RunIsNStepsWithNReports := by
  refine ⟨fun _ => rfl, fun n s => ⟨_, _, run_eq n s, ?_, core_run_eq n s⟩, fun m n s t u rs qs hm hn => ?_⟩
  · rw [List.length_map, List.length_iterate]
  · obtain ⟨rfl, rfl⟩ := Prod.mk.inj (Host.Outcome.next.inj ((run_eq m s).symm.trans hm))
    obtain ⟨rfl, rfl⟩ := Prod.mk.inj (Host.Outcome.next.inj ((run_eq n _).symm.trans hn))
    rw [run_eq, List.iterate_add, List.map_append, Nat.add_comm m n, Function.iterate_add_apply]

/-- Settles O55: the host's write is `MemWrite`, and a peek reads the memory it leaves. -/
theorem loadThenPeek : Obligations.LoadThenPeek := by
  refine ⟨fun s addr b v hs => ?_, fun s addr => ⟨rfl, rfl⟩⟩
  obtain ⟨hread, hlast, hframe⟩ := memWriteEffect s addr v hs
  refine ⟨hostWrite addr v s, rfl, ?_, hlast, hframe⟩
  exact congrArg (fun byte => Host.Outcome.next (_, HostReply.byte byte)) (hread b)

/-! ### The absolute and indirect modes (40_engine_addressing.md R90, R91, R92, R93) -/

/-- The sum of an indexed absolute mode wraps modulo 65536. -/
theorem toNat_add_zext16 (w : Addr) (index : Byte) : (w + zext16 index).toNat = (w.toNat + index.toNat) % 65536 := by
  rw [BitVec.toNat_add, toNat_zext16]

/-- Settles O37: the fetch leaves X and Y, so both address functions give the sum that `toNat_add_zext16` gives as a number. -/
theorem absoluteAddresses : Obligations.AbsoluteAddresses := by
  refine ⟨fun s w s1 h => ?_, fun s w => ⟨toNat_add_zext16 .., toNat_add_zext16 ..⟩⟩
  obtain ⟨rfl, rfl⟩ := Prod.mk.inj ((fetchWord_eq s).symm.trans h)
  exact ⟨⟨rfl, rfl⟩, ⟨_, rfl, rfl, toNat_add_zext16 ..⟩, ⟨_, rfl, rfl, toNat_add_zext16 ..⟩⟩

/-- Settles O38: `eaInd_eq`, with the address after the pointer written as a number. -/
theorem indirectTargetHasNoPageWrap : Obligations.IndirectTargetHasNoPageWrap := by
  intro ptr s
  have hnext : BitVec.ofNat 16 (ptr.toNat + 1) = ptr + 1 := by
    rw [BitVec.ofNat_add, BitVec.ofNat_toNat, BitVec.setWidth_eq]; rfl
  rw [eaInd_eq, hnext]
  exact ⟨toNat_wordOf _ _, rfl⟩

end Sys2Proof

/-! The proofs on the result of each instruction (41_load.md to 48_nop_unsupported.md) and on the step report (40_engine_addressing.md R96). The shared operations are written once as record updates with `statusZN`; each form of an instruction is one of them at its own address. -/

namespace Sys2Proof.Machine

variable (s : State) (r : Reg) (v : Byte) (ea : Addr)

/-! ### The shared operations as record updates -/

theorem setZN_eq_statusZN : s.setZN v = { s with p := statusZN v s.p } :=
  State.eq_of_fields (setZN_pc s v) (setZN_sp s v) (setZN_a s v) (setZN_x s v) (setZN_y s v) (setZN_p s v)
    (setZN_mem s v) (setZN_lastRead s v) (setZN_lastWrite s v)

theorem result_eq_statusZN : result r v s = { s.setReg r v with p := statusZN v s.p } := by
  rw [result_eq, setZN_eq_statusZN, setReg_p]

theorem load_eq_statusZN : load r ea s =
    { s.setReg r (s.mem.read ea) with p := statusZN (s.mem.read ea) s.p, lastRead := some ea } := by
  rw [load_eq, result_eq_statusZN]
  cases r <;> rfl

theorem andMem_eq_statusZN : andMem ea s =
    { s with a := s.a &&& s.mem.read ea, p := statusZN (s.a &&& s.mem.read ea) s.p, lastRead := some ea } := by
  rw [andMem_eq, result_eq_statusZN]
  rfl

theorem modifyMem_eq_statusZN (f : Byte → Byte) : modifyMem f ea s =
    { s with mem := s.mem.write ea (f (s.mem.read ea)), p := statusZN (f (s.mem.read ea)) s.p,
             lastRead := some ea, lastWrite := some ea } := by
  rw [modifyMem_eq, setZN_eq_statusZN]

end Sys2Proof.Machine

namespace Sys2Proof

open Machine

/-! ### Each form of an instruction -/

theorem exec_eq_of_after {i : Instr} {s t : State} (h : i.after s = t) : exec i s = .next t :=
  h ▸ exec_eq_after i s

/-- Settles O39: the immediate form is a result write, each other form a load at its own address. -/
theorem ldaResults : Obligations.LdaResults := by
  intro s v nn w
  refine ⟨exec_eq_of_after (result_eq_statusZN s .a v), ?_, ?_, ?_, ?_, ?_⟩
  all_goals exact exec_eq_of_after (load_eq_statusZN s .a _)

/-- Settles O40: the immediate form is a result write, each other form a load at its own address. -/
theorem ldxResults : Obligations.LdxResults := by
  intro s v nn w
  refine ⟨exec_eq_of_after (result_eq_statusZN s .x v), ?_, ?_, ?_, ?_⟩
  all_goals exact exec_eq_of_after (load_eq_statusZN s .x _)

/-- Settles O41: the immediate form is a result write, each other form a load at its own address. -/
theorem ldyResults : Obligations.LdyResults := by
  intro s v nn w
  refine ⟨exec_eq_of_after (result_eq_statusZN s .y v), ?_, ?_, ?_, ?_⟩
  all_goals exact exec_eq_of_after (load_eq_statusZN s .y _)

/-- Settles O42: each form is the shared store of A at its own address. -/
theorem staResults : Obligations.StaResults := by
  intro s nn w
  refine ⟨?_, ?_, ?_, ?_, ?_⟩
  all_goals exact exec_eq_of_after (store_eq s .a _)

/-- Settles O43: each form is the shared store of X or of Y at its own address. -/
theorem stxStyResults : Obligations.StxStyResults := by
  intro s nn w
  refine ⟨?_, ?_, ?_, exec_eq_of_after (store_eq s .y _), exec_eq_of_after (store_eq s .y _),
    exec_eq_of_after (store_eq s .y _)⟩
  all_goals exact exec_eq_of_after (store_eq s .x _)

/-- Settles O44: a transfer is a result write of its source, and TXS a register write without flags. -/
theorem transferResults : Obligations.TransferResults := by
  intro s
  refine ⟨?_, ?_, ?_, ?_, ?_, rfl⟩
  all_goals exact exec_eq_of_after (result_eq_statusZN s _ _)

/-- Settles O45: each form counts the byte at its own address up or down. -/
theorem memoryIncDecResults : Obligations.MemoryIncDecResults := by
  intro s nn w
  simp only [← dec_eq_sub_one]
  refine ⟨?_, ?_, ?_, ?_, ?_, ?_, ?_, ?_⟩
  all_goals exact exec_eq_of_after (modifyMem_eq_statusZN s _ _)

/-- Settles O46: each is a result write of the register counted up or down. -/
theorem registerIncDecResults : Obligations.RegisterIncDecResults := by
  intro s
  simp only [← dec_eq_sub_one]
  refine ⟨?_, ?_, ?_, ?_⟩
  all_goals exact exec_eq_of_after (result_eq_statusZN s _ _)

/-- Settles O47: the immediate form is a result write, each other form the shared AND at its own address. -/
theorem andResults : Obligations.AndResults := by
  intro s v nn w
  refine ⟨exec_eq_of_after (result_eq_statusZN s .a (s.a &&& v)), ?_, ?_, ?_, ?_, ?_⟩
  all_goals exact exec_eq_of_after (andMem_eq_statusZN s _)

/-- Settles O48: each is the flag primitive of its mask. -/
theorem flagInstructionResults : Obligations.FlagInstructionResults := fun _ =>
  ⟨rfl, rfl, rfl, rfl, rfl, rfl, rfl⟩

/-- Settles O49: both are the definition of the handler, with Indirect's two reads written out. -/
theorem jumpResults : Obligations.JumpResults := fun _ _ => ⟨rfl, rfl⟩

/-- Settles O50: both are the definition of the handler. -/
theorem nopAndUnsupportedResults : Obligations.NopAndUnsupportedResults := fun _ _ => ⟨rfl, rfl⟩

/-! ### The step report (40_engine_addressing.md R96) -/

section Report

variable {i : Instr} (s : State)

theorem reportSupported_dispatch_iff {op b1 b2 : Byte} :
    reportSupported (dispatch op b1 b2) = true ↔ op ∈ coreOpcodes := by
  have unsupported_iff (j : Instr) : reportSupported j = false ↔ ∃ q, j = .unsupported q := by
    cases j <;> simp [reportSupported]
  rw [← not_iff_not, Bool.not_eq_true, unsupported_iff]
  simp only [dispatch_eq_unsupported_iff, exists_eq_left]

/-- A jump reports its target. -/
theorem report_of_jmp (h : i.mnemonic = "JMP") : reportEa i s = some (i.after s).pc ∧ reportValue i s = none := by
  cases i <;> simp [Instr.mnemonic] at h <;> exact ⟨rfl, rfl⟩

/-- A load reports its data address and its result byte, which goes to a register other than SP. -/
theorem report_of_load (h : i.mnemonic ∈ ["LDA", "LDX", "LDY"]) : reportEa i s = i.dataReadAddr s ∧
    ∃ q, i.destReg = some q ∧ reportValue i s = some ((i.after s).reg q) := by
  have hreport : reportEa i s = i.dataReadAddr s ∧ reportValue i s = i.resultByte s ∧
      ∃ q, i.destReg = some q ∧ q ≠ .sp := by
    cases i <;> simp [Instr.mnemonic] at h <;> exact ⟨rfl, rfl, _, rfl, by decide⟩
  obtain ⟨hea, hvalue, q, hq, hsp⟩ := hreport
  exact ⟨hea, q, hq, hvalue.trans (Instr.resultByte_of_destReg s hq hsp)⟩

theorem reportEa_of_storeAddr {addr : Addr} (h : i.storeAddr s = some addr) : reportEa i s = some addr := by
  cases i <;> cases h <;> rfl

/-- AND reports its operand byte, and leaves A AND that byte in A. -/
theorem report_of_and (h : i.mnemonic = "AND") : reportEa i s = i.dataReadAddr s ∧
    ∃ v, reportValue i s = some v ∧ (i.after s).a = s.a &&& v ∧
      (i = .andImm v ∨ ∃ addr, i.dataReadAddr s = some addr ∧ v = s.mem.read addr) := by
  have hd : i.destReg = some .a := destReg_eq_iff.2 (by simp [h, Reg.writers])
  have hoperand : reportEa i s = i.dataReadAddr s ∧ ∃ v, reportValue i s = some v ∧
      i.resultByte s = some (s.a &&& v) ∧
      (i = .andImm v ∨ ∃ addr, i.dataReadAddr s = some addr ∧ v = s.mem.read addr) := by
    cases i <;> simp [Instr.mnemonic] at h
    case andImm v => exact ⟨rfl, v, rfl, rfl, .inl rfl⟩
    all_goals exact ⟨rfl, _, rfl, rfl, .inr ⟨_, rfl, rfl⟩⟩
  obtain ⟨hea, v, hv, hresult, hsource⟩ := hoperand
  exact ⟨hea, v, hv, Instr.after_reg_of_resultByte s hd hresult, hsource⟩

theorem report_of_implied (h : i.mode = .implied) : reportEa i s = none ∧ reportValue i s = none := by
  cases i <;> cases h <;> exact ⟨rfl, rfl⟩

/-- The addresses and bytes of the report do not depend on the fetch. -/
theorem stepReport_ea : (stepReport s).ea = reportEa (fetchInstr s).1 s := by
  simp [stepReport, fetchInstr_snd]

theorem stepReport_value : (stepReport s).value = reportValue (fetchInstr s).1 s := by
  simp [stepReport, fetchInstr_snd]

end Report

/-- Settles O56: the report's fields by the rules above, on the state after the fetch, and the byte stored by `stepped_mem_of_storeAddr`. -/
theorem stepReportMatchesTheStep : Obligations.StepReportMatchesTheStep := by
  intro s
  refine ⟨s.stepped, stepReport s, by rw [hostCommand, step_eq_stepped], step_eq_stepped s, rfl, rfl, rfl, ?_,
    fun h => report_of_jmp _ h, fun h => ?_, fun addr h => ?_, fun h => ?_, fun h => report_of_implied _ h⟩
  · show reportSupported (fetchInstr s).1 = true ↔ _
    rw [fetchInstr_instr, reportSupported_dispatch_iff]
  · simpa [stepReport_ea, stepReport_value, stepped_eq] using report_of_load (afterFetch _ s) h
  · refine ⟨(stepReport_ea s).trans (reportEa_of_storeAddr s h), fun hs => ?_⟩
    obtain ⟨v, hv, hm⟩ := stepped_mem_of_storeAddr s h
    rw [stepReport_value, hv, hm, Memory.read_write_same hs]
  · simpa [stepReport_ea, stepReport_value, stepped_eq] using report_of_and (afterFetch _ s) h

end Sys2Proof
